-- ==== Sys2Proof/Word.lean ====
section
/-! DEFINITION. The machine's words: bytes and register indices (spec/10_state.md R11, spec/20_memory.md R40). -/

namespace Sys2Proof

/-- A register value, a memory cell or an operand byte: an unsigned integer 0 to 255 (spec/00_scope.md R5). -/
abbrev Byte := BitVec 8

/-- The index of one of the eight general registers (spec/10_state.md R11). -/
abbrev RegIdx := Fin 8

end Sys2Proof
end

