-- ==== Sys2Proof/Syntax.lean ====
section
/-! DEFINITION. The 34 instructions of spec/30_encoding.md R65, in the order of its table. An operand is the whole byte
that stands in the program (R66): a byte above 7 in a register position is legal to write and faults when it is
dispatched (spec/40_execution_cycle.md R86). -/

namespace Sys2Proof

/-- One instruction with the operand bytes it uses. -/
inductive Instr where
  /-- `NOP`, opcode 0x00. No effect (R160). -/
  | nop
  /-- `HLT`, opcode 0x01. End the run (R161). -/
  | hlt
  /-- `RET`, opcode 0x11. Return from a subroutine (R133). -/
  | ret
  /-- `IRET`, opcode 0x13. Return from an interrupt (R163). -/
  | iret
  /-- `PUSH`, opcode 0x45. Push register a (R130). -/
  | push (a : Byte)
  /-- `POP`, opcode 0x46. Pop into register a (R131). -/
  | pop (a : Byte)
  /-- `PRN`, opcode 0x47. Print register a in decimal (R143). -/
  | prn (a : Byte)
  /-- `PRA`, opcode 0x48. Print register a as a character (R144). -/
  | pra (a : Byte)
  /-- `CALL`, opcode 0x50. Call the subroutine at the address in register a (R132). -/
  | call (a : Byte)
  /-- `INT`, opcode 0x52. Raise the interrupt whose number is in register a (R162). -/
  | int (a : Byte)
  /-- `JMP`, opcode 0x54. Jump to the address in register a (R150). -/
  | jmp (a : Byte)
  /-- `JEQ`, opcode 0x55. Jump if E (R151). -/
  | jeq (a : Byte)
  /-- `JNE`, opcode 0x56. Jump if not E (R152). -/
  | jne (a : Byte)
  /-- `JGT`, opcode 0x57. Jump if G (R153). -/
  | jgt (a : Byte)
  /-- `JLT`, opcode 0x58. Jump if L (R154). -/
  | jlt (a : Byte)
  /-- `JLE`, opcode 0x59. Jump if L or E (R156). -/
  | jle (a : Byte)
  /-- `JGE`, opcode 0x5A. Jump if G or E (R155). -/
  | jge (a : Byte)
  /-- `INC`, opcode 0x65. Increment (R106). -/
  | inc (a : Byte)
  /-- `DEC`, opcode 0x66. Decrement (R107). -/
  | dec (a : Byte)
  /-- `NOT`, opcode 0x69. Complement (R111). -/
  | not (a : Byte)
  /-- `LDI`, opcode 0x82. Load the immediate b into register a (R140). -/
  | ldi (a b : Byte)
  /-- `LD`, opcode 0x83. Load the byte at the address in register b into register a (R141). -/
  | ld (a b : Byte)
  /-- `ST`, opcode 0x84. Store register b at the address in register a (R142). -/
  | st (a b : Byte)
  /-- `ADD`, opcode 0xA0. R101. -/
  | add (a b : Byte)
  /-- `SUB`, opcode 0xA1. R102. -/
  | sub (a b : Byte)
  /-- `MUL`, opcode 0xA2. R103. -/
  | mul (a b : Byte)
  /-- `DIV`, opcode 0xA3. R104. -/
  | div (a b : Byte)
  /-- `MOD`, opcode 0xA4. R105. -/
  | mod (a b : Byte)
  /-- `CMP`, opcode 0xA7. Compare and set the flags (R114). -/
  | cmp (a b : Byte)
  /-- `AND`, opcode 0xA8. R108. -/
  | and (a b : Byte)
  /-- `OR`, opcode 0xAA. R109. -/
  | or (a b : Byte)
  /-- `XOR`, opcode 0xAB. R110. -/
  | xor (a b : Byte)
  /-- `SHL`, opcode 0xAC. R112. -/
  | shl (a b : Byte)
  /-- `SHR`, opcode 0xAD. R113. -/
  | shr (a b : Byte)
  deriving DecidableEq, Repr

/-- The operand bytes of an instruction, operand a first (spec/30_encoding.md R60). -/
def Instr.operands : Instr → List Byte
  | .nop | .hlt | .ret | .iret => []
  | .push a | .pop a | .prn a | .pra a | .call a | .int a | .jmp a | .jeq a | .jne a | .jgt a | .jlt a | .jle a | .jge a | .inc a | .dec a | .not a => [a]
  | .ldi a b | .ld a b | .st a b | .add a b | .sub a b | .mul a b | .div a b | .mod a b | .cmp a b | .and a b | .or a b | .xor a b | .shl a b | .shr a b => [a, b]

end Sys2Proof
end

