-- ==== Sys2Proof/WellFormed.lean ====
section
/-! DEFINITION. Which operand bytes are register indices (spec/30_encoding.md R66), and when they are in range. -/

namespace Sys2Proof

/-- The operand bytes that are register indices, operand a first. Operand b of `LDI` is an immediate. -/
def Instr.regOperands : Instr → List Byte
  | .nop | .hlt | .ret | .iret => []
  | .push a | .pop a | .prn a | .pra a | .call a | .int a => [a]
  | .jmp a | .jeq a | .jne a | .jgt a | .jlt a | .jle a | .jge a => [a]
  | .inc a | .dec a | .not a => [a]
  | .ldi a _ => [a]
  | .ld a b | .st a b => [a, b]
  | .add a b | .sub a b | .mul a b | .div a b | .mod a b | .cmp a b => [a, b]
  | .and a b | .or a b | .xor a b | .shl a b | .shr a b => [a, b]

/-- A byte names a register when it is 0 to 7 (spec/10_state.md R14). -/
def namesReg (a : Byte) : Bool := a.toNat < 8

/-- Every register operand is 0 to 7 (spec/40_execution_cycle.md R86). -/
def Instr.wf (i : Instr) : Bool := i.regOperands.all namesReg

end Sys2Proof
end

