-- ==== Sys2Proof/Decode.lean ====
section
/-! DEFINITION. The decoder of spec/30_encoding.md R63, the encoder written from the same table (R65, R71), and the
host's view of one table row as a number. -/

namespace Sys2Proof

/-- Why the decoder rejects its input. -/
inductive DecodeError where
  /-- The opcode byte is none of the 34 of R65 (spec/30_encoding.md R68). -/
  | invalidInstruction (op : Byte)
  deriving DecidableEq, Repr

/-- `AA`, bits 7 to 6 of the opcode byte: the operand count (spec/30_encoding.md R61). -/
def operandCount (op : Byte) : Nat := (op.extractLsb' 6 2).toNat

/-- `B`, bit 5 of the opcode byte: the operation is routed to the ALU (spec/30_encoding.md R61). -/
def isAlu (op : Byte) : Bool := op.getLsbD 5

/-- `C`, bit 4 of the opcode byte: the operation sets the program counter itself (spec/30_encoding.md R61). -/
def setsPc (op : Byte) : Bool := op.getLsbD 4

/-- The instruction that the three fetched bytes stand for. The identity is selected by all 8 bits of the opcode byte
(spec/30_encoding.md R64); operand bytes an instruction does not use are ignored (R69). -/
def decode (op a b : Byte) : Except DecodeError Instr :=
  match op with
  | 0x00#8 => .ok .nop
  | 0x01#8 => .ok .hlt
  | 0x11#8 => .ok .ret
  | 0x13#8 => .ok .iret
  | 0x45#8 => .ok (.push a)
  | 0x46#8 => .ok (.pop a)
  | 0x47#8 => .ok (.prn a)
  | 0x48#8 => .ok (.pra a)
  | 0x50#8 => .ok (.call a)
  | 0x52#8 => .ok (.int a)
  | 0x54#8 => .ok (.jmp a)
  | 0x55#8 => .ok (.jeq a)
  | 0x56#8 => .ok (.jne a)
  | 0x57#8 => .ok (.jgt a)
  | 0x58#8 => .ok (.jlt a)
  | 0x59#8 => .ok (.jle a)
  | 0x5A#8 => .ok (.jge a)
  | 0x65#8 => .ok (.inc a)
  | 0x66#8 => .ok (.dec a)
  | 0x69#8 => .ok (.not a)
  | 0x82#8 => .ok (.ldi a b)
  | 0x83#8 => .ok (.ld a b)
  | 0x84#8 => .ok (.st a b)
  | 0xA0#8 => .ok (.add a b)
  | 0xA1#8 => .ok (.sub a b)
  | 0xA2#8 => .ok (.mul a b)
  | 0xA3#8 => .ok (.div a b)
  | 0xA4#8 => .ok (.mod a b)
  | 0xA7#8 => .ok (.cmp a b)
  | 0xA8#8 => .ok (.and a b)
  | 0xAA#8 => .ok (.or a b)
  | 0xAB#8 => .ok (.xor a b)
  | 0xAC#8 => .ok (.shl a b)
  | 0xAD#8 => .ok (.shr a b)
  | op => .error (.invalidInstruction op)

/-- The opcode byte of an instruction (spec/30_encoding.md R65). -/
def Instr.opcode : Instr → Byte
  | .nop => 0x00
  | .hlt => 0x01
  | .ret => 0x11
  | .iret => 0x13
  | .push _ => 0x45
  | .pop _ => 0x46
  | .prn _ => 0x47
  | .pra _ => 0x48
  | .call _ => 0x50
  | .int _ => 0x52
  | .jmp _ => 0x54
  | .jeq _ => 0x55
  | .jne _ => 0x56
  | .jgt _ => 0x57
  | .jlt _ => 0x58
  | .jle _ => 0x59
  | .jge _ => 0x5A
  | .inc _ => 0x65
  | .dec _ => 0x66
  | .not _ => 0x69
  | .ldi _ _ => 0x82
  | .ld _ _ => 0x83
  | .st _ _ => 0x84
  | .add _ _ => 0xA0
  | .sub _ _ => 0xA1
  | .mul _ _ => 0xA2
  | .div _ _ => 0xA3
  | .mod _ _ => 0xA4
  | .cmp _ _ => 0xA7
  | .and _ _ => 0xA8
  | .or _ _ => 0xAA
  | .xor _ _ => 0xAB
  | .shl _ _ => 0xAC
  | .shr _ _ => 0xAD

/-- The bytes of an instruction at ascending addresses: the opcode, then the operands (spec/30_encoding.md R71). -/
def encode (i : Instr) : List Byte := i.opcode :: i.operands

/-- Byte `k` of a number whose bit 0 is bit 0 of the first byte. -/
def wordByte (w k : Nat) : Byte := BitVec.ofNat 8 (w / 256 ^ k)

/-- The instruction the decoder reads from a table row's number, the bits above `nbits` zero. -/
def decodeTableWord (nbits w : Nat) : Option Instr :=
  let v := w % 2 ^ nbits
  match decode (wordByte v 0) (wordByte v 1) (wordByte v 2) with
  | .ok i => some i
  | .error _ => none

end Sys2Proof
end

