-- ==== Sys2Proof/Config.lean ====
section
/-! DEFINITION. The parameters of spec/00_scope.md R4 and the one free input of the machine. -/

namespace Sys2Proof.Config

/-- `MEM_SIZE`: the number of memory cells. -/
abbrev memSize : Nat := 256

/-- `IM_REG`: the register that is the Interrupt Mask. -/
abbrev imReg : RegIdx := 5

/-- `IS_REG`: the register that is the Interrupt Status. -/
abbrev isReg : RegIdx := 6

/-- `SP_REG`: the register that is the Stack Pointer. -/
abbrev spReg : RegIdx := 7

/-- `SP_RESET`. -/
abbrev spReset : Byte := 0xF4

/-- `IM_RESET`: bit 0 stated by the source; bits 7 to 1 are the spec's decision D3. DESIGN CHOICE, unsafe, log 2. -/
abbrev imReset : Byte := 0x01

/-- `IS_RESET`. -/
abbrev isReset : Byte := 0x00

/-- `PC_RESET`. -/
abbrev pcReset : Nat := 0

/-- `GPR_RESET`, registers 0 to 4: the spec's decision D2. DESIGN CHOICE, unsafe, log 2. -/
abbrev gprReset : Byte := 0x00

/-- `FL_RESET`: the spec's decision D4. DESIGN CHOICE, unsafe, log 2. -/
abbrev flReset : Byte := 0x00

/-- The latches `IR`, `OPA`, `OPB` at reset, unspecified and unobservable in R30. DESIGN CHOICE, unsafe, log 3. -/
abbrev latchReset : Byte := 0x00

/-- `VECTOR_BASE`: the address of the vector of interrupt 0. -/
abbrev vectorBase : Nat := 0xF8

/-- `TIMER_IRQ`: the interrupt number of the timer. -/
abbrev timerIrq : Fin 8 := 0

/-- The timer input of cycle `n`: a free value, under no law (spec/60_exceptions.md R182). DESIGN CHOICE, safe, log 4. -/
opaque tick : Nat → Bool

end Sys2Proof.Config
end

