-- ==== Sys2Proof/Machine/State.lean ====
section
/-! DEFINITION. The state of CORE as plain data (spec/10_state.md R10), the reasons a step can stop, and the state
after reset (R30). -/

namespace Sys2Proof.Machine

/-- One event on the output port (spec/10_state.md R27). -/
inductive OutEvent where
  /-- `Dec(v)`: print decimal, from `PRN`. -/
  | dec (v : Byte)
  /-- `Chr(v)`: print as character code, from `PRA`. -/
  | chr (v : Byte)
  deriving DecidableEq, Repr

/-- The kinds of fatal error (spec/60_exceptions.md R170). -/
inductive FaultKind where
  | outOfRange
  | invalidInstruction
  | invalidRegister
  | invalidInterruptNumber
  | divisionByZero
  | unsupportedAluOp
  | registerIndexOutOfRange
  deriving DecidableEq, Repr

/-- `STATUS` (spec/10_state.md R25). -/
inductive Status where
  | running
  | halted
  | fault (k : FaultKind)
  deriving DecidableEq, Repr

/-- How a fatal error ends the run: the kind, the `info` of `raise K(info)` where R170 gives one, and `OUT` as it
stood, which is all that may be relied on afterwards (spec/10_state.md R25). DESIGN CHOICE, logs 5 and 8. -/
inductive Fault where
  /-- Raised by the fetch reads when `pc >= 254` and by interrupt entry when `pc > 255` (R172): the spec's own fault, safe. -/
  | outOfRange (addr : Nat) (out : List OutEvent)
  /-- Raised by decode on a byte outside the opcode table (R173): the spec's own fault, safe. -/
  | invalidInstruction (op : Byte) (out : List OutEvent)
  /-- Raised by `LDI` and `PRN` with operand a above 7 (R174): the spec's own fault, safe. -/
  | invalidRegister (a : Byte) (out : List OutEvent)
  /-- Raised by `INT` when the register holds more than 7 (R175): the spec's own fault, safe. -/
  | invalidInterruptNumber (n : Byte) (out : List OutEvent)
  /-- Raised by `DIV` and `MOD` with a zero divisor (R176): the spec's own fault, safe. -/
  | divisionByZero (out : List OutEvent)
  /-- Raised by nothing: the spec keeps the name and says no state produces it (R177). Safe. -/
  | unsupportedAluOp (out : List OutEvent)
  /-- Raised by every other instruction with a register operand above 7 (R178, the spec's decision D8). Safe. -/
  | registerIndexOutOfRange (a : Byte) (out : List OutEvent)
  deriving DecidableEq, Repr

/-- Why a step has no outcome of the machine's own. -/
inductive Refusal where
  /-- An instruction without a meaning yet, raised by `exec`'s arm: none is left. Safe. -/
  | notModelled (mnemonic : String)
  /-- Raised by `step` on a state that is not `RUNNING`, which has no cycle (spec/40_execution_cycle.md R80).
  DEDUCED, safe, log 6. -/
  | noCycle
  deriving DecidableEq, Repr

/-- Memory: the cells that do not hold zero, by rising address (spec/10_state.md R26, log 7). -/
abbrev Memory := List Host.Cell

/-- The canonical form: addresses strictly rising and inside the space, and no entry that holds zero, which is what
an unlisted address reads as. -/
abbrev Memory.wf (m : Memory) : Prop :=
  m.Pairwise (fun c d => c.1 < d.1) ∧ ∀ c ∈ m, c.1 < Config.memSize ∧ c.2 ≠ 0


/-- The state of CORE (spec/10_state.md R10), and the model's own two fields for the timer input (log 4). -/
structure State where
  /-- `x[0]` to `x[7]`; `x[5]` is `IM`, `x[6]` is `IS`, `x[7]` is `SP` (R11, R13). -/
  regs : Vector Byte 8
  /-- The program counter, 0 to 256, never truncated (R16). -/
  pc : Nat
  /-- `IR` (R18). -/
  ir : Byte
  /-- `OPA` (R18). -/
  opa : Byte
  /-- `OPB` (R18). -/
  opb : Byte
  /-- `FL` (R19). -/
  fl : Byte
  /-- `IE` (R24). -/
  ie : Bool
  /-- `MEM` (R26). -/
  mem : Memory
  /-- `STATUS` (R25). -/
  status : Status
  /-- `OUT`, oldest event first (R27). -/
  out : List OutEvent
  /-- The model's own: the tick inputs already fixed for the coming cycles, soonest first (log 4). -/
  ticks : List Bool
  /-- The model's own: the number of the coming cycle, where `Config.tick` is read when `ticks` is empty (log 4). -/
  cycle : Nat
  deriving DecidableEq, Repr

/-- The state of machine construction, before the host loads a program (spec/10_state.md R30). Values of the latches,
of registers 0 to 4, of `FL` and of bits 7 to 1 of `IM`: logs 2 and 3; of `ticks` and `cycle`: log 4. -/
def State.reset : State where
  regs := #v[Config.gprReset, Config.gprReset, Config.gprReset, Config.gprReset, Config.gprReset,
    Config.imReset, Config.isReset, Config.spReset]
  pc := Config.pcReset
  ir := Config.latchReset
  opa := Config.latchReset
  opb := Config.latchReset
  fl := Config.flReset
  ie := true
  mem := []
  status := .running
  out := []
  ticks := []
  cycle := 0

end Sys2Proof.Machine
end

