-- ==== Sys2Proof/Machine/Ops.lean ====
section
/-! DEFINITION. The named operations over registers, memory, stack and interrupts that every meaning is built from. -/

namespace Sys2Proof.Machine

/-- An operation's result: a value, a fault, or a refusal. -/
abbrev Res (α : Type) := Host.Outcome α Fault Refusal

/-- Run `f` on a result's value; a fault or a refusal ends the cycle at once (spec/00_scope.md R7). -/
def andThen {α β : Type} (r : Res α) (f : α → Res β) : Res β :=
  match r with
  | .next x => f x
  | .fault k => .fault k
  | .refused k => .refused k

/-- `trunc8(v) = v mod 256`, for negative `v` too (spec/00_scope.md R5). -/
def trunc8 (v : Int) : Byte := BitVec.ofInt 8 v

/-! ### Writes of one state element -/

/-- `pc <- n`. -/
def State.setPc (s : State) (n : Nat) : State := { s with pc := n }

/-- `FL <- v`, all 8 bits. -/
def State.setFl (s : State) (v : Byte) : State := { s with fl := v }

/-- `IE <- b`. -/
def State.setIe (s : State) (b : Bool) : State := { s with ie := b }

/-- Memory becomes `m`. -/
def State.setMem (s : State) (m : Memory) : State := { s with mem := m }

/-- `IR`, `OPA`, `OPB` receive the fetched bytes. -/
def State.setLatches (s : State) (op a b : Byte) : State := { s with ir := op, opa := a, opb := b }

/-- `halt`: `STATUS <- HALTED` (spec/00_scope.md R7). -/
def State.halt (s : State) : State := { s with status := .halted }

/-! ### Registers (spec/10_state.md R11, R12) -/

/-- `x[i]`. -/
def State.reg (s : State) (i : RegIdx) : Byte := s.regs[i.val]

/-- `x[i] <- v`. -/
def State.setReg (s : State) (i : RegIdx) (v : Byte) : State := { s with regs := s.regs.set i.val v }

/-- `pc <- target`, where the target is an 8-bit value (spec/00_scope.md R7). -/
def State.jump (s : State) (target : Byte) : State := s.setPc target.toNat

/-- `Emit(e)` (spec/10_state.md R27). -/
def State.emit (s : State) (e : OutEvent) : State := { s with out := s.out ++ [e] }

/-! ### Memory (spec/20_memory.md R40 to R42) -/

/-- The byte a cell holds; an unlisted cell holds zero, the contents at reset (spec/10_state.md R26). -/
def Memory.get : Memory → Nat → Byte
  | [], _ => 0
  | (k, v) :: m, a => if k = a then v else Memory.get m a

/-- List a byte at its place in the rising order, in place of the address's old entry. -/
def Memory.insert : Memory → Nat → Byte → Memory
  | [], a, v => [(a, v)]
  | (k, w) :: m, a, v =>
    if a < k then (a, v) :: (k, w) :: m
    else if k = a then (a, v) :: m
    else (k, w) :: Memory.insert m a v

/-- Write a byte and keep the canonical form: a cell that comes to hold zero is not listed. -/
def Memory.put (m : Memory) (a : Nat) (v : Byte) : Memory :=
  if v = 0 then m.filter (fun c => c.1 != a) else Memory.insert m a v

/-- `MemRead(addr, 1)` (spec/20_memory.md R41). -/
def memRead (addr : Nat) (s : State) : Res Byte :=
  if addr < Config.memSize then .next (s.mem.get addr) else .fault (.outOfRange addr s.out)

/-- `MemWrite(addr, 1, v)` (spec/20_memory.md R42). -/
def memWrite (addr : Nat) (v : Byte) (s : State) : Res State :=
  if addr < Config.memSize then .next (s.setMem (s.mem.put addr v)) else .fault (.outOfRange addr s.out)

/-! ### The stack (spec/20_memory.md R56, R57) -/

/-- The stack pointer after a push: one less, modulo 256. -/
def pushedSp (s : State) : Byte := trunc8 (((s.reg Config.spReg).toNat : Int) - 1)

/-- The stack pointer after a pop: one more, modulo 256. -/
def poppedSp (s : State) : Byte := trunc8 (((s.reg Config.spReg).toNat : Int) + 1)

/-- `Push(v)`: decrement `SP`, then write at the address it then holds. -/
def push (v : Byte) (s : State) : Res State :=
  memWrite (pushedSp s).toNat v (s.setReg Config.spReg (pushedSp s))

/-- `Pop()`: read at `SP`, then increment `SP`; the value and the state after. -/
def pop (s : State) : Res (Byte × State) :=
  andThen (memRead (s.reg Config.spReg).toNat s) fun v =>
    .next (v, s.setReg Config.spReg (poppedSp s))

/-- Push the named registers, the first of the list first. -/
def pushRegs : List RegIdx → State → Res State
  | [], s => .next s
  | i :: is, s => andThen (push (s.reg i) s) (pushRegs is)

/-- Pop into the named registers, the first of the list first. -/
def popRegs : List RegIdx → State → Res State
  | [], s => .next s
  | i :: is, s => andThen (pop s) fun r => popRegs is (r.2.setReg i r.1)

/-! ### Interrupts (spec/60_exceptions.md R181 to R191) -/

/-- A byte with bit `n` alone set. -/
def irqBit (n : Fin 8) : Byte := 1#8 <<< n.val

/-- `IS` bit `n` becomes 1; other bits are kept. -/
def State.raiseIrq (s : State) (n : Fin 8) : State :=
  s.setReg Config.isReg (s.reg Config.isReg ||| irqBit n)

/-- `IS` bit `n` becomes 0; other bits are kept. -/
def State.clearIrq (s : State) (n : Fin 8) : State :=
  s.setReg Config.isReg (s.reg Config.isReg &&& ~~~ irqBit n)

/-- The numbers of the interrupts, in the order of the scan. -/
def irqScan : List (Fin 8) := [0, 1, 2, 3, 4, 5, 6, 7]

/-- The interrupt the scan of `masked = IM & IS` finds: the lowest bit set (spec/60_exceptions.md R184). -/
def pendingIrq (s : State) : Option (Fin 8) :=
  irqScan.find? fun n => (s.reg Config.imReg &&& s.reg Config.isReg).getLsbD n.val

/-- Interrupt entry for interrupt `i` (spec/60_exceptions.md R185). The pushed `IS` is the cleared one. -/
def interruptEntry (i : Fin 8) (s : State) : Res State :=
  if 255 < s.pc then .fault (.outOfRange s.pc s.out)
  else
    andThen (push (trunc8 s.pc) ((s.setIe false).clearIrq i)) fun s1 =>
    andThen (push s1.fl s1) fun s2 =>
    andThen (pushRegs [0, 1, 2, 3, 4, 5, 6] s2) fun s3 =>
    andThen (memRead (Config.vectorBase + i.val) s3) fun v =>
      .next (s3.jump v)

/-- Return from an interrupt (spec/45_system.md R163): registers 6 down to 0, then `FL`, then `pc`, then `IE`. -/
def interruptReturn (s : State) : Res State :=
  andThen (popRegs [6, 5, 4, 3, 2, 1, 0] s) fun s1 =>
  andThen (pop s1) fun f =>
  andThen (pop (f.2.setFl f.1)) fun p =>
    .next ((p.2.jump p.1).setIe true)

/-- The interrupt check, step 1 of the cycle (spec/60_exceptions.md R181). -/
def interruptCheck (tick : Bool) (s : State) : Res State :=
  if s.ie then
    let s1 := if tick then s.raiseIrq Config.timerIrq else s
    match pendingIrq s1 with
    | some i => interruptEntry i s1
    | none => .next s1
  else .next s

/-! ### The timer input (spec/60_exceptions.md R182, log 4) -/

/-- The value of `tick` in the coming cycle: what the environment has fixed, else a free value. -/
def State.tickNow (s : State) : Bool :=
  match s.ticks with
  | t :: _ => t
  | [] => Config.tick s.cycle

/-- The coming cycle has taken its `tick`. -/
def State.nextTick (s : State) : State := { s with ticks := s.ticks.tail, cycle := s.cycle + 1 }

/-! ### Fetch (spec/40_execution_cycle.md R82) -/

/-- Step 2 of the cycle: three reads, at `pc`, `pc + 1`, `pc + 2`, into `IR`, `OPA`, `OPB`. -/
def fetch (s : State) : Res State :=
  andThen (memRead s.pc s) fun op =>
  andThen (memRead (s.pc + 1) s) fun a =>
  andThen (memRead (s.pc + 2) s) fun b =>
    .next (s.setLatches op a b)

end Sys2Proof.Machine
end

