-- ==== Sys2Proof/Machine/Flags.lean ====
section
/-! DEFINITION. The flags register `FL` (spec/10_state.md R19): what `CMP` writes and what the jumps test. -/

namespace Sys2Proof.Machine

/-- `E`, bit 0. -/
def flagE (fl : Byte) : Bool := fl.getLsbD 0

/-- `G`, bit 1. -/
def flagG (fl : Byte) : Bool := fl.getLsbD 1

/-- `L`, bit 2. -/
def flagL (fl : Byte) : Bool := fl.getLsbD 2

/-- What `CMP` writes: exactly one of E, G, L, from the unsigned values (spec/41_alu.md R114). -/
def compareFlags (x y : Byte) : Byte :=
  if x.toNat = y.toNat then 0b00000001
  else if y.toNat < x.toNat then 0b00000010
  else 0b00000100

end Sys2Proof.Machine
end

