-- ==== Sys2Proof/Machine/Operands.lean ====
section
/-! DEFINITION. Register operands (spec/30_encoding.md R66) and the register-operand check (spec/40_execution_cycle.md
R86). An immediate operand is its byte as it stands (R67). Every address is a whole register (spec/43_load_store_io.md R145). -/

namespace Sys2Proof.Machine

/-- The register an operand byte names, if it is 0 to 7. -/
def regOperand? (a : Byte) : Option RegIdx :=
  if h : a.toNat < 8 then some ⟨a.toNat, h⟩ else none

/-- The operand byte that names a register (spec/30_encoding.md R71). -/
def regByte (i : RegIdx) : Byte := BitVec.ofNat 8 i.val

/-- Continue with the register an operand names; above 7 the instruction faults (R178, the spec's decision D8). -/
def withReg (a : Byte) (s : State) (k : RegIdx → Res State) : Res State :=
  match regOperand? a with
  | some i => k i
  | none => .fault (.registerIndexOutOfRange a s.out)

/-- The same for `LDI` and `PRN`, whose fault is `InvalidRegister` (R174). -/
def withValidatedReg (a : Byte) (s : State) (k : RegIdx → Res State) : Res State :=
  match regOperand? a with
  | some i => k i
  | none => .fault (.invalidRegister a s.out)

end Sys2Proof.Machine
end

