-- ==== Sys2Proof/Machine/Alu.lean ====
section
/-! DEFINITION. The 14 ALU instructions (spec/41_alu.md). Sources are read before the destination is written, results
are exact integers truncated to 8 bits, and only `CMP` writes `FL` (R100, R115). -/

namespace Sys2Proof.Machine

/-- A two-operand operation: `x[a] <- f (x[a]) (x[b])` (R100). -/
def alu2 (f : Byte → Byte → Byte) (a b : Byte) (s : State) : Res State :=
  withReg a s fun i => withReg b s fun j => .next (s.setReg i (f (s.reg i) (s.reg j)))

/-- A one-operand operation: `x[a] <- f (x[a])`; the byte at `pc + 2` is ignored and unchecked (D22). -/
def alu1 (f : Byte → Byte) (a : Byte) (s : State) : Res State :=
  withReg a s fun i => .next (s.setReg i (f (s.reg i)))

/-- An operation that faults on a zero divisor before any write (R104, R105). -/
def aluDivide (f : Byte → Byte → Byte) (a b : Byte) (s : State) : Res State :=
  withReg a s fun i => withReg b s fun j =>
    if s.reg j = 0 then .fault (.divisionByZero s.out)
    else .next (s.setReg i (f (s.reg i) (s.reg j)))

/-- `ADD a, b` (R101). -/
def execAdd (a b : Byte) (s : State) : Res State :=
  alu2 (fun x y => trunc8 ((x.toNat : Int) + y.toNat)) a b s

/-- `SUB a, b` (R102). -/
def execSub (a b : Byte) (s : State) : Res State :=
  alu2 (fun x y => trunc8 ((x.toNat : Int) - y.toNat)) a b s

/-- `MUL a, b` (R103). -/
def execMul (a b : Byte) (s : State) : Res State :=
  alu2 (fun x y => trunc8 ((x.toNat : Int) * y.toNat)) a b s

/-- `DIV a, b` (R104): the floor of the exact quotient (the spec's decision D10). -/
def execDiv (a b : Byte) (s : State) : Res State :=
  aluDivide (fun x y => trunc8 ((x.toNat / y.toNat : Nat) : Int)) a b s

/-- `MOD a, b` (R105): the matching remainder (the spec's decision D10). -/
def execMod (a b : Byte) (s : State) : Res State :=
  aluDivide (fun x y => trunc8 ((x.toNat % y.toNat : Nat) : Int)) a b s

/-- `INC a` (R106). -/
def execInc (a : Byte) (s : State) : Res State :=
  alu1 (fun x => trunc8 ((x.toNat : Int) + 1)) a s

/-- `DEC a` (R107). -/
def execDec (a : Byte) (s : State) : Res State :=
  alu1 (fun x => trunc8 ((x.toNat : Int) - 1)) a s

/-- `NOT a` (R111). -/
def execNot (a : Byte) (s : State) : Res State :=
  alu1 (fun x => trunc8 (255 - (x.toNat : Int))) a s

/-- `AND a, b` (R108). -/
def execAnd (a b : Byte) (s : State) : Res State := alu2 (fun x y => x &&& y) a b s

/-- `OR a, b` (R109). -/
def execOr (a b : Byte) (s : State) : Res State := alu2 (fun x y => x ||| y) a b s

/-- `XOR a, b` (R110). -/
def execXor (a b : Byte) (s : State) : Res State := alu2 (fun x y => x ^^^ y) a b s

/-- `SHL a, b` (R112): the amount is the whole value of `x[b]` (the spec's decision D9). -/
def execShl (a b : Byte) (s : State) : Res State := alu2 (fun x y => x <<< y.toNat) a b s

/-- `SHR a, b` (R113): logical, by the whole value of `x[b]` (the spec's decision D9). -/
def execShr (a b : Byte) (s : State) : Res State := alu2 (fun x y => x >>> y.toNat) a b s

/-- `CMP a, b` (R114): all 8 bits of `FL` are written, no register is. -/
def execCmp (a b : Byte) (s : State) : Res State :=
  withReg a s fun i => withReg b s fun j => .next (s.setFl (compareFlags (s.reg i) (s.reg j)))

end Sys2Proof.Machine
end

