-- ==== Sys2Proof/Machine/Jumps.lean ====
section
/-! DEFINITION. The jumps (spec/44_jumps.md). The register operand is checked whether or not the jump is taken; a jump
not taken writes `pc + 2` itself (R157). -/

namespace Sys2Proof.Machine

/-- Jump to `x[a]` when `taken`, else to `pc + 2` (R157). -/
def jumpIf (taken : Bool) (a : Byte) (s : State) : Res State :=
  withReg a s fun i => .next (if taken then s.jump (s.reg i) else s.setPc (s.pc + 2))

/-- `JMP a` (R150). -/
def execJmp (a : Byte) (s : State) : Res State := withReg a s fun i => .next (s.jump (s.reg i))

/-- `JEQ a` (R151). -/
def execJeq (a : Byte) (s : State) : Res State := jumpIf (flagE s.fl) a s

/-- `JNE a` (R152, the spec's decision D12). -/
def execJne (a : Byte) (s : State) : Res State := jumpIf (!flagE s.fl) a s

/-- `JGT a` (R153). -/
def execJgt (a : Byte) (s : State) : Res State := jumpIf (flagG s.fl) a s

/-- `JLT a` (R154). -/
def execJlt (a : Byte) (s : State) : Res State := jumpIf (flagL s.fl) a s

/-- `JLE a` (R156, the spec's decision D12). -/
def execJle (a : Byte) (s : State) : Res State := jumpIf (flagL s.fl || flagE s.fl) a s

/-- `JGE a` (R155, the spec's decision D12). -/
def execJge (a : Byte) (s : State) : Res State := jumpIf (flagG s.fl || flagE s.fl) a s

end Sys2Proof.Machine
end

