-- ==== Sys2Proof/Machine/LoadStore.lean ====
section
/-! DEFINITION. LDI, LD, ST, PRN, PRA (spec/43_load_store_io.md). -/

namespace Sys2Proof.Machine

/-- `LDI a, b` (R140): operand b is the value as it stands. -/
def execLdi (a b : Byte) (s : State) : Res State :=
  withValidatedReg a s fun i => .next (s.setReg i b)

/-- `LD a, b` (R141, the spec's decision D7). -/
def execLd (a b : Byte) (s : State) : Res State :=
  withReg a s fun i => withReg b s fun j =>
    andThen (memRead (s.reg j).toNat s) fun v => .next (s.setReg i v)

/-- `ST a, b` (R142). -/
def execSt (a b : Byte) (s : State) : Res State :=
  withReg a s fun i => withReg b s fun j => memWrite (s.reg i).toNat (s.reg j) s

/-- `PRN a` (R143). -/
def execPrn (a : Byte) (s : State) : Res State :=
  withValidatedReg a s fun i => .next (s.emit (.dec (s.reg i)))

/-- `PRA a` (R144). -/
def execPra (a : Byte) (s : State) : Res State :=
  withReg a s fun i => .next (s.emit (.chr (s.reg i)))

end Sys2Proof.Machine
end

