-- ==== Sys2Proof/Machine/StackCall.lean ====
section
/-! DEFINITION. PUSH, POP, CALL, RET (spec/42_stack_call.md). -/

namespace Sys2Proof.Machine

/-- `PUSH a` (R130): the value is read before `SP` changes (D13). -/
def execPush (a : Byte) (s : State) : Res State :=
  withReg a s fun i => push (s.reg i) s

/-- `POP a` (R131): the destination is written after the increment (D13). -/
def execPop (a : Byte) (s : State) : Res State :=
  withReg a s fun i => andThen (pop s) fun r => .next (r.2.setReg i r.1)

/-- `CALL a` (R132): push the address after the operand, then read the target (D13). The return address fits a byte
wherever a `CALL` can be fetched; log 9 for other values of `pc`. -/
def execCall (a : Byte) (s : State) : Res State :=
  withReg a s fun i => andThen (push (trunc8 ((s.pc : Int) + 2)) s) fun s1 => .next (s1.jump (s1.reg i))

/-- `RET` (R133). -/
def execRet (s : State) : Res State :=
  andThen (pop s) fun r => .next (r.2.jump r.1)

end Sys2Proof.Machine
end

