-- ==== Sys2Proof/Machine/System.lean ====
section
/-! DEFINITION. NOP, HLT, INT, IRET (spec/45_system.md). -/

namespace Sys2Proof.Machine

/-- `NOP` (R160): nothing but the cycle's advance of `pc`. -/
def execNop (s : State) : Res State := .next s

/-- `HLT` (R161): `STATUS <- HALTED`; the cycle then does not advance `pc`. -/
def execHlt (s : State) : Res State := .next s.halt

/-- `INT a` (R162): make interrupt `x[a]` pending; `pc` stays at the `INT` (C6, D14). -/
def execInt (a : Byte) (s : State) : Res State :=
  withReg a s fun i =>
    if h : (s.reg i).toNat < 8 then .next (s.raiseIrq ⟨(s.reg i).toNat, h⟩)
    else .fault (.invalidInterruptNumber (s.reg i) s.out)

/-- `IRET` (R163). -/
def execIret (s : State) : Res State := interruptReturn s

end Sys2Proof.Machine
end

