-- ==== Sys2Proof/Machine/Cycle.lean ====
section
/-! DEFINITION. The five steps of the cycle put together (spec/40_execution_cycle.md R80), and where the host's word
is placed for it. -/

namespace Sys2Proof.Machine

/-- Step 3: decode the latches; a byte outside the table is fatal (R84). -/
def decodeLatched (s : State) : Res Instr :=
  match decode s.ir s.opa s.opb with
  | .ok i => .next i
  | .error (.invalidInstruction op) => .fault (.invalidInstruction op s.out)

/-- Step 5: `pc <- pc + 1 + count` unless the opcode sets `pc` itself (R87). `HLT` ends the cycle before it (R161). -/
def advance (s : State) : State :=
  match s.status with
  | .running => if setsPc s.ir then s else s.setPc (s.pc + 1 + operandCount s.ir)
  | .halted => s
  | .fault _ => s

/-- Steps 2 to 5: fetch, decode, dispatch, advance. -/
def fetchAndExecute (s : State) : Res State :=
  andThen (fetch s) fun s1 =>
  andThen (decodeLatched s1) fun i =>
  andThen (exec i s1) fun s2 =>
    .next (advance s2)

/-- One cycle with its tick input: the interrupt check, then steps 2 to 5 (R80, R81). -/
def runCycle (tick : Bool) (s : State) : Res State :=
  andThen (interruptCheck tick s) fetchAndExecute

/-- The state whose next fetch is at a place of its own choice and is not diverted by an interrupt: RUNNING, no tick in
the coming cycle, `IE` false if an interrupt would be taken, and `pc` at 0 if nothing can be fetched at it (log 10). -/
def State.fetchReady (s : State) : State :=
  { s with
    status := .running
    ticks := false :: s.ticks.tail
    ie := s.ie && (pendingIrq s).isNone
    pc := if s.pc ≤ 253 then s.pc else 0 }

/-- Put three bytes at `pc`. -/
def State.placeBytes (s : State) (b0 b1 b2 : Byte) : State :=
  s.setMem (((s.mem.put s.pc b0).put (s.pc + 1) b1).put (s.pc + 2) b2)

end Sys2Proof.Machine
end

