-- ==== Sys2Proof/Machine/Step.lean ====
section
/-! DEFINITION. One step of the machine: one cycle (spec/40_execution_cycle.md R80). -/

namespace Sys2Proof.Machine

/-- A RUNNING state runs one cycle with this cycle's tick; any other state has no cycle (R80, log 6). -/
def step (s : State) : Host.Outcome State Fault Refusal :=
  match s.status with
  | .running => runCycle s.tickNow s.nextTick
  | .halted => .refused .noCycle
  | .fault _ => .refused .noCycle

/-- The state with one instruction, its later bytes zero, placed where the very next step fetches it (log 10). -/
def State.withFetchWord (s : State) (nbits w : Nat) : State :=
  let v := w % 2 ^ nbits
  s.fetchReady.placeBytes (wordByte v 0) (wordByte v 1) (wordByte v 2)

end Sys2Proof.Machine
end

