-- ==== Sys2Proof/Machine/Ports.lean ====
section
/-! DEFINITION. The ports of CORE (spec/40_execution_cycle.md R89): status, trace, and the host's load. The reset port is
`State.reset`, the tick port is `State.tickNow`, the out_event port is the field `out`. -/

namespace Sys2Proof.Machine

/-- The kind of a fatal error (spec/60_exceptions.md R170). -/
def Fault.kind : Fault → FaultKind
  | .outOfRange _ _ => .outOfRange
  | .invalidInstruction _ _ => .invalidInstruction
  | .invalidRegister _ _ => .invalidRegister
  | .invalidInterruptNumber _ _ => .invalidInterruptNumber
  | .divisionByZero _ => .divisionByZero
  | .unsupportedAluOp _ => .unsupportedAluOp
  | .registerIndexOutOfRange _ _ => .registerIndexOutOfRange

/-- `OUT` as a fatal error leaves it (spec/10_state.md R25). -/
def Fault.out : Fault → List OutEvent
  | .outOfRange _ out => out
  | .invalidInstruction _ out => out
  | .invalidRegister _ out => out
  | .invalidInterruptNumber _ out => out
  | .divisionByZero out => out
  | .unsupportedAluOp out => out
  | .registerIndexOutOfRange _ out => out

/-- The codes of the status port (spec/60_exceptions.md R171). -/
def Status.code : Status → Nat
  | .running => 0
  | .halted => 1
  | .fault .outOfRange => 2
  | .fault .invalidInstruction => 3
  | .fault .invalidRegister => 4
  | .fault .invalidInterruptNumber => 5
  | .fault .divisionByZero => 6
  | .fault .unsupportedAluOp => 7
  | .fault .registerIndexOutOfRange => 8

/-- `STATUS` after a step from `s`: of the next state, `FAULT(K)` after a fatal error, and unchanged where there is no
cycle (spec/00_scope.md R7, R8). -/
def statusAfter (s : State) : Status :=
  match step s with
  | .next t => t.status
  | .fault f => .fault f.kind
  | .refused _ => s.status

/-- `OUT` after a step from `s`, a fatal error included (spec/40_execution_cycle.md R90). -/
def outAfter (s : State) : List OutEvent :=
  match step s with
  | .next t => t.out
  | .fault f => f.out
  | .refused _ => s.out

/-- The eleven values of the trace port (spec/60_exceptions.md R196). -/
structure Trace where
  pc : Nat
  bytes : Byte × Byte × Byte
  regs : Vector Byte 8
  deriving DecidableEq, Repr

/-- The trace of the coming cycle, sampled after its fetch; none where the cycle does not get that far (R196). -/
def traceSample (s : State) : Option Trace :=
  match s.status with
  | .running =>
    match andThen (interruptCheck s.tickNow s.nextTick) fetch with
    | .next t => some { pc := t.pc, bytes := (t.ir, t.opa, t.opb), regs := t.regs }
    | .fault _ => none
    | .refused _ => none
  | .halted => none
  | .fault _ => none

/-- Write bytes at ascending addresses. -/
def Memory.load : Memory → Nat → List Byte → Memory
  | m, _, [] => m
  | m, a, b :: bs => Memory.load (m.put a b) (a + 1) bs

/-- The state in which the first cycle starts: reset, then the image at `[0, N)` (spec/20_memory.md R55). An image of
more than 256 bytes never reaches CORE. -/
def loadImage (image : List Byte) : Option State :=
  if image.length ≤ Config.memSize then
    some (State.reset.setMem (Memory.load State.reset.mem 0 image))
  else none

end Sys2Proof.Machine
end

