-- ==== Sys2Proof/Safety.lean ====
section
/-! DEFINITION. The terms claims are stated in: the machine's invariant, and what an instruction may change. -/

namespace Sys2Proof.Machine

/-- What holds between cycles of a run: memory in canonical form (log 7), `pc` in its range (spec/10_state.md R16), and
`STATUS` not a fault, which only an outcome is (log 5). -/
structure State.Inv (s : State) : Prop where
  mem_wf : Memory.wf s.mem
  pc_range : s.pc ≤ 256
  status_alive : s.status = .running ∨ s.status = .halted

end Sys2Proof.Machine

namespace Sys2Proof

open Machine

/-- The registers an instruction may write: the destination that an operand names (spec/30_encoding.md R66) and those
it writes implicitly (spec/10_state.md R15). -/
def Instr.writtenRegs : Instr → List RegIdx
  | .nop | .hlt | .prn _ | .pra _ | .cmp _ _ | .st _ _ => []
  | .jmp _ | .jeq _ | .jne _ | .jgt _ | .jlt _ | .jle _ | .jge _ => []
  | .inc a | .dec a | .not a => (regOperand? a).toList
  | .ldi a _ | .ld a _ => (regOperand? a).toList
  | .add a _ | .sub a _ | .mul a _ | .div a _ | .mod a _ => (regOperand? a).toList
  | .and a _ | .or a _ | .xor a _ | .shl a _ | .shr a _ => (regOperand? a).toList
  | .push _ | .call _ | .ret => [Config.spReg]
  | .pop a => Config.spReg :: (regOperand? a).toList
  | .int _ => [Config.isReg]
  | .iret => [0, 1, 2, 3, 4, 5, 6, 7]

/-- The address an instruction stores its one byte to (spec/20_memory.md R43); none for a form that stores nothing. -/
def Instr.storedAddr (i : Instr) (s : State) : Option Nat :=
  match i with
  | .st a _ => (regOperand? a).map fun r => (s.reg r).toNat
  | .push _ => some (pushedSp s).toNat
  | .call _ => some (pushedSp s).toNat
  | .nop | .hlt | .ret | .iret => none
  | .pop _ | .prn _ | .pra _ | .int _ => none
  | .jmp _ | .jeq _ | .jne _ | .jgt _ | .jlt _ | .jle _ | .jge _ => none
  | .inc _ | .dec _ | .not _ | .ldi _ _ | .ld _ _ => none
  | .add _ _ | .sub _ _ | .mul _ _ | .div _ _ | .mod _ _ | .cmp _ _ => none
  | .and _ _ | .or _ _ | .xor _ _ | .shl _ _ | .shr _ _ => none

/-- The 14 operations of the ALU (spec/41_alu.md R100). -/
def Instr.isAluOperation : Instr → Bool
  | .add _ _ | .sub _ _ | .mul _ _ | .div _ _ | .mod _ _ | .cmp _ _ => true
  | .and _ _ | .or _ _ | .xor _ _ | .shl _ _ | .shr _ _ => true
  | .inc _ | .dec _ | .not _ => true
  | .nop | .hlt | .ret | .iret | .push _ | .pop _ | .prn _ | .pra _ | .call _ | .int _ => false
  | .jmp _ | .jeq _ | .jne _ | .jgt _ | .jlt _ | .jle _ | .jge _ => false
  | .ldi _ _ | .ld _ _ | .st _ _ => false

/-- The 11 operations after which the cycle leaves `pc` alone (spec/30_encoding.md R65). -/
def Instr.leavesPcToHandler : Instr → Bool
  | .ret | .iret | .call _ | .int _ => true
  | .jmp _ | .jeq _ | .jne _ | .jgt _ | .jlt _ | .jle _ | .jge _ => true
  | .nop | .hlt | .push _ | .pop _ | .prn _ | .pra _ | .inc _ | .dec _ | .not _ => false
  | .ldi _ _ | .ld _ _ | .st _ _ => false
  | .add _ _ | .sub _ _ | .mul _ _ | .div _ _ | .mod _ _ | .cmp _ _ => false
  | .and _ _ | .or _ _ | .xor _ _ | .shl _ _ | .shr _ _ => false

/-- The fault a bad register operand raises: `InvalidRegister` in the two instructions the source validates, the
spec's own kind in every other (spec/40_execution_cycle.md R86). -/
def Instr.operandFault (i : Instr) (a : Byte) (out : List OutEvent) : Fault :=
  match i with
  | .ldi _ _ | .prn _ => .invalidRegister a out
  | .nop | .hlt | .ret | .iret | .push _ | .pop _ | .pra _ | .call _ | .int _ => .registerIndexOutOfRange a out
  | .jmp _ | .jeq _ | .jne _ | .jgt _ | .jlt _ | .jle _ | .jge _ => .registerIndexOutOfRange a out
  | .inc _ | .dec _ | .not _ | .ld _ _ | .st _ _ => .registerIndexOutOfRange a out
  | .add _ _ | .sub _ _ | .mul _ _ | .div _ _ | .mod _ _ | .cmp _ _ => .registerIndexOutOfRange a out
  | .and _ _ | .or _ _ | .xor _ _ | .shl _ _ | .shr _ _ => .registerIndexOutOfRange a out

/-- The 34 legal opcode bytes (spec/30_encoding.md R68). -/
def legalOpcodes : List Byte :=
  [0x00, 0x01, 0x11, 0x13, 0x45, 0x46, 0x47, 0x48, 0x50, 0x52, 0x54, 0x55, 0x56, 0x57, 0x58, 0x59] ++
  [0x5A, 0x65, 0x66, 0x69, 0x82, 0x83, 0x84, 0xA0, 0xA1, 0xA2, 0xA3, 0xA4, 0xA7, 0xA8, 0xAA, 0xAB] ++
  [0xAC, 0xAD]

end Sys2Proof

namespace Sys2Proof.Machine

/-- `s1` is what `s` becomes when the interrupt check of its coming cycle is done (spec/40_execution_cycle.md R81): `s`
itself, or the first state of a handler. -/
def State.checkedTo (s s1 : State) : Prop :=
  s.status = .running ∧ interruptCheck s.tickNow s.nextTick = .next s1

/-- A state with the three bytes at `pc` in its latches (spec/40_execution_cycle.md R82). -/
def State.latched (s : State) : State :=
  s.setLatches (s.mem.get s.pc) (s.mem.get (s.pc + 1)) (s.mem.get (s.pc + 2))

/-- `IM & IS`, bit `i`: interrupt `i` is pending and enabled (spec/60_exceptions.md R183). -/
def State.irqReady (s : State) (i : Fin 8) : Bool :=
  (s.reg Config.imReg).getLsbD i.val && (s.reg Config.isReg).getLsbD i.val

end Sys2Proof.Machine
end

