-- ==== Sys2Proof/Certificates/Slice0/Obligations.lean ====
section
/-! DEFINITION. The statements about the machine that the provers settle. Each docstring names the rules of spec/ it
formalises; where a clause rests on a decision of the spec (D<n>) or of this model (log <n>), it says so. -/

open Sys2Proof Sys2Proof.Machine

/-! ### Reset and loading -/

/-- The state of construction (spec/10_state.md section 7). Zero in registers 0 to 4, in `FL` and in bits 7 to 1 of
`IM` are the spec's decisions D2, D4, D3. Nothing is said of the latches and of the model's own fields. -/
def Obligations.ResetStateIsAsSpecified : Prop :=
  State.reset.pc = 0 ∧ State.reset.ie = true ∧ State.reset.status = .running ∧ State.reset.out = [] ∧
  State.reset.reg 5 = 0x01 ∧ State.reset.reg 6 = 0x00 ∧ State.reset.reg 7 = 0xF4 ∧ State.reset.fl = 0x00 ∧
  (∀ i : RegIdx, i.val < 5 → State.reset.reg i = 0x00) ∧
  ∀ a, a < 256 → memRead a State.reset = .next 0x00

/-- Loading (spec/20_memory.md section 6): an image of at most 256 bytes stands at `[0, N)`, every cell above reads
zero, nothing else of the reset state changes, and a longer image never starts. The clause `s.Inv` is the model's choice:
the canonical form of memory is log 7, the form of `STATUS` is log 5. -/
def Obligations.LoadImageFillsMemoryFromZero : Prop :=
  ∀ image : List Byte,
    (image.length ≤ 256 → ∃ s, loadImage image = some s ∧
      (∀ k (h : k < image.length), s.mem.get k = image[k]) ∧
      (∀ k, image.length ≤ k → s.mem.get k = 0) ∧
      s.Inv ∧ s = { State.reset with mem := s.mem }) ∧
    (256 < image.length → loadImage image = none)

/-- The reset state meets the invariant that `StepKeepsInvariant` keeps. -/
def Obligations.ResetMeetsInvariant : Prop := State.reset.Inv

/-! ### Memory -/

/-- `MemRead` and its partner `MemWrite` (R41; spec/20_memory.md section 1). -/
def Obligations.MemoryReadsTheLastWrite : Prop :=
  ∀ (addr : Nat) (v : Byte) (s : State),
    (addr < 256 → memRead addr s = .next (s.mem.get addr) ∧
      ∃ t, memWrite addr v s = .next t ∧ t.mem.get addr = v ∧
        (∀ a, a ≠ addr → t.mem.get a = s.mem.get a) ∧ t = { s with mem := t.mem }) ∧
    (256 ≤ addr → memRead addr s = .fault (.outOfRange addr s.out) ∧
      memWrite addr v s = .fault (.outOfRange addr s.out))

/-- Canonical memories that read alike are the same list: the model's form of memory (log 7). -/
def Obligations.CanonicalMemoryIsDeterminedByItsReads : Prop :=
  ∀ m n : Memory, Memory.wf m → Memory.wf n → (∀ a, m.get a = n.get a) → m = n

/-! ### Encoding -/

/-- A few words of spec/30_encoding.md section 3, written out. -/
def Obligations.WordsOfTheTableDecode : Prop :=
  decode 0xA0 0x00 0x01 = .ok (.add 0 1) ∧ decode 0x82 0x00 0x08 = .ok (.ldi 0 8) ∧
  decode 0x84 0x02 0x00 = .ok (.st 2 0) ∧ decode 0x45 0x07 0x00 = .ok (.push 7) ∧
  decode 0x56 0x03 0x47 = .ok (.jne 3) ∧ decode 0x13 0xFF 0xFF = .ok .iret ∧
  decode 0xA5 0x00 0x01 = .error (.invalidInstruction 0xA5)

/-- Decode and encode agree both ways, for every instruction and every operand byte (spec/30_encoding.md sections 1, 3
and 6): a decoded instruction's bytes are the first `1 + AA` of the three, and nothing else decodes to it. -/
def Obligations.DecodeAndEncodeAgree : Prop :=
  ∀ (op a b : Byte) (i : Instr),
    decode op a b = .ok i ↔ encode i = [op, a, b].take (1 + operandCount op)

/-- The encoded bytes of an instruction, put in memory at `pc`, are fetched and decoded as that instruction, whatever
stands after them (spec/40_execution_cycle.md R82, spec/30_encoding.md section 4). -/
def Obligations.EncodedInstructionIsFetchedAndDecoded : Prop :=
  ∀ (i : Instr) (s : State), s.pc ≤ 253 →
    (∀ k (h : k < (encode i).length), s.mem.get (s.pc + k) = (encode i)[k]) →
    fetch s = .next s.latched ∧ decodeLatched s.latched = .next i

/-- R63: the decoder's triple is the one the bits `AABCDDDD` imply, and every byte outside the table is rejected. -/
def Obligations.DecoderReproducesTheOpcodeFields : Prop :=
  (∀ (op a b : Byte) (i : Instr), decode op a b = .ok i →
    op = i.opcode ∧ operandCount op = op.toNat / 64 ∧ operandCount op = i.operands.length ∧
    isAlu op = i.isAluOperation ∧ (isAlu op = true ↔ op.toNat / 32 % 2 = 1) ∧
    setsPc op = i.leavesPcToHandler ∧ (setsPc op = true ↔ op.toNat / 16 % 2 = 1)) ∧
  (∀ op a b : Byte, op ∈ legalOpcodes → ∃ i, decode op a b = .ok i) ∧
  (∀ op a b : Byte, op ∉ legalOpcodes → decode op a b = .error (.invalidInstruction op))

/-! ### The cycle -/

/-- A step runs the decoded instruction (spec/40_execution_cycle.md R80): after the interrupt check and the fetch,
`step` is `exec` of the instruction, and then `pc` moves past its bytes unless the instruction halted or its opcode
sets `pc` itself (R87). A fault of `exec` is the step's, and `exec` refuses nothing. -/
def Obligations.StepRunsTheDecodedInstruction : Prop :=
  ∀ (s s1 : State) (i : Instr), s.checkedTo s1 → s1.pc ≤ 253 →
    decode (s1.mem.get s1.pc) (s1.mem.get (s1.pc + 1)) (s1.mem.get (s1.pc + 2)) = .ok i →
    (∀ t, exec i s1.latched = .next t →
      step s = .next (if t.status = .halted then t
        else if setsPc i.opcode then t else { t with pc := t.pc + (encode i).length })) ∧
    (∀ f, exec i s1.latched = .fault f → step s = .fault f) ∧
    ∀ r, exec i s1.latched ≠ .refused r

/-- The fetch fault (spec/40_execution_cycle.md section 1, R83, which the spec derives): with `pc` at 254 or above no
instruction executes, whatever stands there. Nothing is said of which of the three reads reports it. -/
def Obligations.FetchAbove253Faults : Prop :=
  ∀ s s1 : State, s.checkedTo s1 → 254 ≤ s1.pc → ∃ addr, step s = .fault (.outOfRange addr s.out)

/-- R173: an opcode byte outside the table ends the run after the fetch, with `OUT` as it stood. -/
def Obligations.UnknownOpcodeFaults : Prop :=
  ∀ s s1 : State, s.checkedTo s1 → s1.pc ≤ 253 → s1.mem.get s1.pc ∉ legalOpcodes →
    step s = .fault (.invalidInstruction (s1.mem.get s1.pc) s.out)

/-- The outcomes of a cycle (spec/00_scope.md section 5): a RUNNING state always has a cycle, it ends RUNNING, HALTED
(only by `HLT`, the byte 0x01 then in `IR`) or in a fault. That a state which is not RUNNING is refused is this
model's form of "no further cycle" (log 6). -/
def Obligations.CycleEndsInOneOfThreeOutcomes : Prop :=
  ∀ s : State,
    (s.status = .running → ∀ r, step s ≠ .refused r) ∧
    (∀ t, step s = .next t → t.status = .running ∨ (t.status = .halted ∧ t.ir = 0x01)) ∧
    (s.status ≠ .running → step s = .refused .noCycle)

/-- `OUT` is append-only (spec/10_state.md section 6) and a cycle appends at most one event; a cycle that ends in a
fault appends none (spec/40_execution_cycle.md section 2). -/
def Obligations.OutputIsAppendOnly : Prop :=
  ∀ s : State,
    (∃ e, outAfter s = s.out ++ e ∧ e.length ≤ 1) ∧
    ∀ f, step s = .fault f → f.out = s.out

/-- The trace port shows the state after the fetch of the cycle (spec/60_exceptions.md section 6; the sampling point is
the spec's decision D18). -/
def Obligations.TraceShowsTheFetchedInstruction : Prop :=
  ∀ s s1 : State, s.checkedTo s1 → s1.pc ≤ 253 →
    ∃ tr, traceSample s = some tr ∧ tr.pc = s1.pc ∧ (∀ i : RegIdx, tr.regs[i.val] = s1.reg i) ∧
      tr.bytes = (s1.mem.get s1.pc, s1.mem.get (s1.pc + 1), s1.mem.get (s1.pc + 2))

/-- The codes of the status port (spec/60_exceptions.md section 1; the numbers are the spec's decision D17). -/
def Obligations.StatusCodesAreDistinct : Prop :=
  Status.code .running = 0 ∧ Status.code .halted = 1 ∧ Status.code (.fault .outOfRange) = 2 ∧
  Status.code (.fault .invalidInstruction) = 3 ∧ Status.code (.fault .invalidRegister) = 4 ∧
  Status.code (.fault .invalidInterruptNumber) = 5 ∧ Status.code (.fault .divisionByZero) = 6 ∧
  Status.code (.fault .unsupportedAluOp) = 7 ∧ Status.code (.fault .registerIndexOutOfRange) = 8 ∧
  ∀ a b : Status, a.code = b.code → a = b

/-! ### ALU -/

/-- ADD, SUB, MUL (spec/41_alu.md section 2): the exact result modulo 256 in register a and nothing else changed. That
results wrap is the spec's decision D1. -/
def Obligations.AddSubMulWrapModulo256 : Prop :=
  ∀ (i j : RegIdx) (s : State),
    exec (.add (regByte i) (regByte j)) s =
      .next (s.setReg i (BitVec.ofNat 8 ((s.reg i).toNat + (s.reg j).toNat))) ∧
    exec (.sub (regByte i) (regByte j)) s =
      .next (s.setReg i (BitVec.ofNat 8 (256 + (s.reg i).toNat - (s.reg j).toNat))) ∧
    exec (.mul (regByte i) (regByte j)) s =
      .next (s.setReg i (BitVec.ofNat 8 ((s.reg i).toNat * (s.reg j).toNat)))

/-- DIV and MOD with a divisor that is not zero (spec/41_alu.md section 2): quotient and remainder satisfy the division
law; the floor reading is the spec's decision D10. -/
def Obligations.DivModGiveQuotientAndRemainder : Prop :=
  ∀ (i j : RegIdx) (s : State), s.reg j ≠ 0 →
    ∃ q r : Byte, exec (.div (regByte i) (regByte j)) s = .next (s.setReg i q) ∧
      exec (.mod (regByte i) (regByte j)) s = .next (s.setReg i r) ∧
      (s.reg i).toNat = q.toNat * (s.reg j).toNat + r.toNat ∧ r.toNat < (s.reg j).toNat

/-- R176: a zero divisor is fatal; the outcome holds no state, so no register is seen changed. -/
def Obligations.DivModByZeroFault : Prop :=
  ∀ (i j : RegIdx) (s : State), s.reg j = 0 →
    exec (.div (regByte i) (regByte j)) s = .fault (.divisionByZero s.out) ∧
    exec (.mod (regByte i) (regByte j)) s = .fault (.divisionByZero s.out)

/-- INC, DEC, NOT (spec/41_alu.md sections 2 and 3): wrapping and the 8-bit complement are the spec's decision D1. -/
def Obligations.IncDecNotOfOneRegister : Prop :=
  ∀ (i : RegIdx) (s : State),
    exec (.inc (regByte i)) s = .next (s.setReg i (s.reg i + 1)) ∧
    exec (.dec (regByte i)) s = .next (s.setReg i (s.reg i - 1)) ∧
    exec (.not (regByte i)) s = .next (s.setReg i (~~~ (s.reg i)))

/-- R108, R109, R110: AND, OR, XOR bit by bit, with their encodings; nothing but register a changes. -/
def Obligations.AndOrXorActBitByBit : Prop :=
  ∀ (i j : RegIdx) (s : State),
    (encode (.and (regByte i) (regByte j)) = [0xA8, regByte i, regByte j] ∧
      ∃ v : Byte, exec (.and (regByte i) (regByte j)) s = .next (s.setReg i v) ∧
        ∀ k, k < 8 → v.getLsbD k = ((s.reg i).getLsbD k && (s.reg j).getLsbD k)) ∧
    (encode (.or (regByte i) (regByte j)) = [0xAA, regByte i, regByte j] ∧
      ∃ v : Byte, exec (.or (regByte i) (regByte j)) s = .next (s.setReg i v) ∧
        ∀ k, k < 8 → v.getLsbD k = ((s.reg i).getLsbD k || (s.reg j).getLsbD k)) ∧
    (encode (.xor (regByte i) (regByte j)) = [0xAB, regByte i, regByte j] ∧
      ∃ v : Byte, exec (.xor (regByte i) (regByte j)) s = .next (s.setReg i v) ∧
        ∀ k, k < 8 → v.getLsbD k = Bool.xor ((s.reg i).getLsbD k) ((s.reg j).getLsbD k))

/-- SHL and SHR by the whole value of register b, zeros shifted in (spec/41_alu.md section 3, the spec's decision D9). -/
def Obligations.ShiftsUseTheWholeAmount : Prop :=
  ∀ (i j : RegIdx) (s : State),
    exec (.shl (regByte i) (regByte j)) s =
      .next (s.setReg i (BitVec.ofNat 8 ((s.reg i).toNat * 2 ^ (s.reg j).toNat))) ∧
    exec (.shr (regByte i) (regByte j)) s =
      .next (s.setReg i (BitVec.ofNat 8 ((s.reg i).toNat / 2 ^ (s.reg j).toNat)))

/-- CMP writes exactly one of E, G, L and clears the rest of `FL`, from the unsigned values (spec/41_alu.md section 4;
unsigned is the spec's decision D11); no register changes. -/
def Obligations.CompareSetsExactlyOneFlag : Prop :=
  ∀ (i j : RegIdx) (s : State), ∃ fl : Byte,
    exec (.cmp (regByte i) (regByte j)) s = .next { s with fl := fl } ∧
    ((s.reg i).toNat = (s.reg j).toNat → fl = 0b001) ∧
    ((s.reg j).toNat < (s.reg i).toNat → fl = 0b010) ∧
    ((s.reg i).toNat < (s.reg j).toNat → fl = 0b100)

/-! ### Stack and subroutines -/

/-- PUSH and POP (spec/42_stack_call.md): `SP` moves by one modulo 256 and one byte is stored or read. The value of
`PUSH R7` and the result of `POP R7` are the spec's decision D13. -/
def Obligations.PushAndPopMoveOneByte : Prop :=
  ∀ (i : RegIdx) (s : State),
    (∃ t, exec (.push (regByte i)) s = .next t ∧ t.reg 7 = s.reg 7 - 1 ∧
      t.mem.get (s.reg 7 - 1).toNat = s.reg i ∧
      (∀ a, a ≠ (s.reg 7 - 1).toNat → t.mem.get a = s.mem.get a) ∧
      t = { s.setReg 7 (s.reg 7 - 1) with mem := t.mem }) ∧
    exec (.pop (regByte i)) s =
      .next ((s.setReg 7 (s.reg 7 + 1)).setReg i (s.mem.get (s.reg 7).toNat))

/-- PUSH then POP into any register carries the value, and `SP` is back unless it is the destination
(spec/20_memory.md section 4; `R7` as an operand is the spec's decision D13). -/
def Obligations.PushThenPopRoundTrips : Prop :=
  ∀ (i j : RegIdx) (s t : State), exec (.push (regByte i)) s = .next t →
    ∃ u, exec (.pop (regByte j)) t = .next u ∧ u.reg j = s.reg i ∧
      (j ≠ 7 → u.reg 7 = s.reg 7) ∧ (∀ k : RegIdx, k ≠ j → k ≠ 7 → u.reg k = s.reg k)

/-- CALL (spec/42_stack_call.md R132): push the address after the operand, then jump to the register as it is after the
push (the order for `R7` is the spec's decision D13). -/
def Obligations.CallPushesTheReturnAddress : Prop :=
  ∀ (i : RegIdx) (s : State), s.pc ≤ 253 →
    ∃ t, exec (.call (regByte i)) s = .next t ∧ t.reg 7 = s.reg 7 - 1 ∧
      (t.mem.get (s.reg 7 - 1).toNat).toNat = s.pc + 2 ∧
      (∀ a, a ≠ (s.reg 7 - 1).toNat → t.mem.get a = s.mem.get a) ∧
      t.pc = (if i = 7 then s.reg 7 - 1 else s.reg i).toNat ∧
      t = { s.setReg 7 (s.reg 7 - 1) with mem := t.mem, pc := t.pc }

/-- R133: RET pops a byte into `pc`. -/
def Obligations.ReturnPopsTheProgramCounter : Prop :=
  ∀ s : State, encode .ret = [0x11] ∧
    exec .ret s = .next { s.setReg 7 (s.reg 7 + 1) with pc := (s.mem.get (s.reg 7).toNat).toNat }

/-- CALL then, in a subroutine that leaves `SP` and the return byte as it found them, RET: execution goes on after the
CALL's operand byte with `SP` restored (spec/42_stack_call.md; C3: one operand byte). -/
def Obligations.CallThenReturnResumes : Prop :=
  ∀ (i : RegIdx) (s t t' : State), s.pc ≤ 253 → exec (.call (regByte i)) s = .next t →
    t'.reg 7 = t.reg 7 → t'.mem.get (t.reg 7).toNat = t.mem.get (t.reg 7).toNat →
    ∃ u, exec .ret t' = .next u ∧ u.pc = s.pc + 2 ∧ u.reg 7 = s.reg 7

/-! ### Load, store, output -/

/-- R140: LDI writes its immediate as it stands, in any of the eight registers, and faults for any other byte. -/
def Obligations.LoadImmediateWritesTheByte : Prop :=
  ∀ (a b : Byte) (s : State), encode (.ldi a b) = [0x82, a, b] ∧
    (∀ i : RegIdx, a.toNat = i.val → exec (.ldi a b) s = .next (s.setReg i b)) ∧
    (7 < a.toNat → exec (.ldi a b) s = .fault (.invalidRegister a s.out))

/-- LD reads the byte at the address in register b (spec/43_load_store_io.md R141, the spec's decision D7). -/
def Obligations.LoadReadsTheAddressedByte : Prop :=
  ∀ (i j : RegIdx) (s : State),
    exec (.ld (regByte i) (regByte j)) s = .next (s.setReg i (s.mem.get (s.reg j).toNat))

/-- R142: ST writes register b to the address in register a; no other byte and nothing else changes. -/
def Obligations.StoreWritesTheAddressedByte : Prop :=
  ∀ (i j : RegIdx) (s : State),
    encode (.st (regByte i) (regByte j)) = [0x84, regByte i, regByte j] ∧
    ∃ t, exec (.st (regByte i) (regByte j)) s = .next t ∧
      t.mem.get (s.reg i).toNat = s.reg j ∧
      (∀ a, a ≠ (s.reg i).toNat → t.mem.get a = s.mem.get a) ∧ t = { s with mem := t.mem }

/-- Fetch coherence (spec/20_memory.md section 5, R53, which the spec derives). After ST, a fetch at any address `p`
reads the stored byte where it covers the address stored to, and every other byte as it was. Of the cycle that runs an
ST: its latches keep the bytes it fetched, even where it stores over them, and the fetch at the `pc` it leaves, three
further on, reads the stored byte. -/
def Obligations.StoreIsSeenByTheNextFetch : Prop :=
  ∀ (i j : RegIdx),
    (∀ s t : State, exec (.st (regByte i) (regByte j)) s = .next t → ∀ p, p ≤ 253 →
      ∃ u, fetch { t with pc := p } = .next u ∧
        u.ir = (if (s.reg i).toNat = p then s.reg j else s.mem.get p) ∧
        u.opa = (if (s.reg i).toNat = p + 1 then s.reg j else s.mem.get (p + 1)) ∧
        u.opb = (if (s.reg i).toNat = p + 2 then s.reg j else s.mem.get (p + 2))) ∧
    ∀ s s1 : State, s.checkedTo s1 → s1.pc ≤ 253 → s1.mem.get s1.pc = 0x84 →
      s1.mem.get (s1.pc + 1) = regByte i → s1.mem.get (s1.pc + 2) = regByte j →
      ∃ t, step s = .next t ∧ t.pc = s1.pc + 3 ∧ t.ir = 0x84 ∧ t.opa = regByte i ∧ t.opb = regByte j ∧
        (t.pc ≤ 253 → ∃ u, fetch t = .next u ∧
          ((s1.reg i).toNat = t.pc → u.ir = s1.reg j) ∧ ((s1.reg i).toNat = t.pc + 1 → u.opa = s1.reg j) ∧
          ((s1.reg i).toNat = t.pc + 2 → u.opb = s1.reg j))

/-- R143: PRN appends one decimal event, or faults for a byte that names no register. -/
def Obligations.PrintDecimalEmitsTheRegister : Prop :=
  ∀ (a : Byte) (s : State), encode (.prn a) = [0x47, a] ∧
    (∀ i : RegIdx, a.toNat = i.val → exec (.prn a) s = .next { s with out := s.out ++ [.dec (s.reg i)] }) ∧
    (7 < a.toNat → exec (.prn a) s = .fault (.invalidRegister a s.out))

/-- PRA appends one character event (spec/43_load_store_io.md R144; the fault of a bad operand is the spec's decision
D8 and is in `BadRegisterOperandFaults`). -/
def Obligations.PrintCharacterEmitsTheRegister : Prop :=
  ∀ (i : RegIdx) (s : State),
    exec (.pra (regByte i)) s = .next { s with out := s.out ++ [.chr (s.reg i)] }

/-! ### Jumps -/

/-- R150, R151, R153, R154: JMP, and the jumps on one flag that is set; not taken, the handler itself adds 2. -/
def Obligations.JumpsOnASetFlag : Prop :=
  ∀ (i : RegIdx) (s : State),
    (encode (.jmp (regByte i)) = [0x54, regByte i] ∧ encode (.jeq (regByte i)) = [0x55, regByte i] ∧
      encode (.jgt (regByte i)) = [0x57, regByte i] ∧ encode (.jlt (regByte i)) = [0x58, regByte i]) ∧
    exec (.jmp (regByte i)) s = .next { s with pc := (s.reg i).toNat } ∧
    exec (.jeq (regByte i)) s =
      .next { s with pc := if s.fl.getLsbD 0 = true then (s.reg i).toNat else s.pc + 2 } ∧
    exec (.jgt (regByte i)) s =
      .next { s with pc := if s.fl.getLsbD 1 = true then (s.reg i).toNat else s.pc + 2 } ∧
    exec (.jlt (regByte i)) s =
      .next { s with pc := if s.fl.getLsbD 2 = true then (s.reg i).toNat else s.pc + 2 }

/-- JNE, JGE, JLE for every byte `FL` can hold (spec/44_jumps.md; the predicates are the spec's decision D12). -/
def Obligations.JumpsOnCombinedFlags : Prop :=
  ∀ (i : RegIdx) (s : State),
    exec (.jne (regByte i)) s =
      .next { s with pc := if s.fl.getLsbD 0 = false then (s.reg i).toNat else s.pc + 2 } ∧
    exec (.jge (regByte i)) s =
      .next { s with pc := if s.fl.getLsbD 1 = true ∨ s.fl.getLsbD 0 = true
        then (s.reg i).toNat else s.pc + 2 } ∧
    exec (.jle (regByte i)) s =
      .next { s with pc := if s.fl.getLsbD 2 = true ∨ s.fl.getLsbD 0 = true
        then (s.reg i).toNat else s.pc + 2 }

/-- After a CMP, the six conditional jumps decide the comparison of the two values (spec/44_jumps.md R158, which the
spec derives; it rests on D11 and D12). -/
def Obligations.CompareThenJumpDecides : Prop :=
  ∀ (i j k : RegIdx) (s t : State), exec (.cmp (regByte i) (regByte j)) s = .next t →
    exec (.jeq (regByte k)) t =
      .next { t with pc := if s.reg i = s.reg j then (s.reg k).toNat else s.pc + 2 } ∧
    exec (.jne (regByte k)) t =
      .next { t with pc := if s.reg i ≠ s.reg j then (s.reg k).toNat else s.pc + 2 } ∧
    exec (.jgt (regByte k)) t =
      .next { t with pc := if s.reg j < s.reg i then (s.reg k).toNat else s.pc + 2 } ∧
    exec (.jlt (regByte k)) t =
      .next { t with pc := if s.reg i < s.reg j then (s.reg k).toNat else s.pc + 2 } ∧
    exec (.jge (regByte k)) t =
      .next { t with pc := if s.reg j ≤ s.reg i then (s.reg k).toNat else s.pc + 2 } ∧
    exec (.jle (regByte k)) t =
      .next { t with pc := if s.reg i ≤ s.reg j then (s.reg k).toNat else s.pc + 2 }

/-! ### System instructions -/

/-- R160: NOP has no effect, and the cycle then moves `pc` by 1. -/
def Obligations.NopOnlyAdvancesPc : Prop :=
  encode .nop = [0x00] ∧ (∀ s : State, exec .nop s = .next s) ∧
  ∀ s s1 : State, s.checkedTo s1 → s1.pc ≤ 253 → s1.mem.get s1.pc = 0x00 →
    step s = .next { s1.latched with pc := s1.pc + 1 }

/-- R161: HLT ends the run with `pc` at the HLT; the fetch must have succeeded, the interrupt check of the cycle comes
first, and no further cycle runs. -/
def Obligations.HaltEndsTheRun : Prop :=
  encode .hlt = [0x01] ∧ (∀ s : State, exec .hlt s = .next { s with status := .halted }) ∧
  (∀ s s1 : State, s.checkedTo s1 → s1.pc ≤ 253 → s1.mem.get s1.pc = 0x01 →
    step s = .next { s1.latched with status := .halted }) ∧
  (∀ s s1 : State, s.checkedTo s1 → 254 ≤ s1.pc → ∃ addr, step s = .fault (.outOfRange addr s.out)) ∧
  (∀ s : State, s.status = .halted → ∀ t, step s ≠ .next t)

/-- INT sets one bit of `IS` and leaves all else, `pc` with it (spec/45_system.md R162; `pc` unchanged is C6 and the
spec's decision D14). -/
def Obligations.IntMakesAnInterruptPending : Prop :=
  ∀ (i : RegIdx) (s : State), (s.reg i).toNat ≤ 7 →
    ∃ v : Byte, exec (.int (regByte i)) s = .next (s.setReg 6 v) ∧
      ∀ k, k < 8 → v.getLsbD k = ((s.reg 6).getLsbD k || decide (k = (s.reg i).toNat))

/-- R175: an interrupt number above 7 is fatal. -/
def Obligations.IntAbove7Faults : Prop :=
  ∀ (i : RegIdx) (s : State), 7 < (s.reg i).toNat →
    exec (.int (regByte i)) s = .fault (.invalidInterruptNumber (s.reg i) s.out)

/-- IRET (spec/45_system.md R163; that all 8 bits of `FL` are stored is the spec's decision D19): nine bytes come off
the stack, `IE` becomes true, and nothing else changes. -/
def Obligations.IretPopsTheFrame : Prop :=
  ∀ s : State, ∃ t, exec .iret s = .next t ∧
    (∀ k : RegIdx, k.val < 7 → t.reg k = s.mem.get (s.reg 7 + BitVec.ofNat 8 (6 - k.val)).toNat) ∧
    t.reg 7 = s.reg 7 + 9 ∧ t.fl = s.mem.get (s.reg 7 + 7).toNat ∧
    t.pc = (s.mem.get (s.reg 7 + 8).toNat).toNat ∧ t.ie = true ∧
    t = { s with regs := t.regs, fl := t.fl, pc := t.pc, ie := t.ie }

/-! ### Interrupts -/

/-- R181: the interrupt check opens every cycle; with `IE` false it does nothing; otherwise a tick sets bit 0 of `IS`
first, and the lowest interrupt that is pending and enabled, if any, is entered, no other. -/
def Obligations.InterruptCheckTakesTheLowestReady : Prop :=
  (∀ s : State, s.status = .running →
    step s = andThen (interruptCheck s.tickNow s.nextTick) fetchAndExecute) ∧
  ∀ (tick : Bool) (s : State),
    (s.ie = false → interruptCheck tick s = .next s) ∧
    (s.ie = true → ∃ s1 : State, s1 = (if tick then s.setReg 6 (s.reg 6 ||| 0b00000001) else s) ∧
      (∀ i : Fin 8, s1.irqReady i = true → (∀ j : Fin 8, j < i → s1.irqReady j = false) →
        interruptCheck tick s = interruptEntry i s1) ∧
      ((∀ i : Fin 8, s1.irqReady i = false) → interruptCheck tick s = .next s1))

/-- Interrupt entry (spec/60_exceptions.md section 4): `IE` false, the bit cleared, nine bytes pushed in order, `pc`
from the vector as it reads after the pushes, nothing else changed; with `pc` at 256 it faults instead (the spec's
decision D6). -/
def Obligations.InterruptEntryBuildsTheFrame : Prop :=
  ∀ (i : Fin 8) (s : State),
    (s.pc ≤ 255 → ∃ t, interruptEntry i s = .next t ∧ t.ie = false ∧
      t.reg 7 = s.reg 7 - 9 ∧ t.reg 6 = s.reg 6 &&& ~~~ (1#8 <<< i.val) ∧
      (∀ k : RegIdx, k.val < 6 → t.reg k = s.reg k) ∧
      t.mem.get (s.reg 7 - 1).toNat = BitVec.ofNat 8 s.pc ∧
      t.mem.get (s.reg 7 - 2).toNat = s.fl ∧
      (∀ k : RegIdx, k.val < 6 → t.mem.get (s.reg 7 - BitVec.ofNat 8 (3 + k.val)).toNat = s.reg k) ∧
      t.mem.get (s.reg 7 - 9).toNat = s.reg 6 &&& ~~~ (1#8 <<< i.val) ∧
      (∀ a, (∀ n, 1 ≤ n → n ≤ 9 → a ≠ (s.reg 7 - BitVec.ofNat 8 n).toNat) → t.mem.get a = s.mem.get a) ∧
      t.pc = (t.mem.get (0xF8 + i.val)).toNat ∧
      t = { s with regs := t.regs, pc := t.pc, ie := t.ie, mem := t.mem }) ∧
    (255 < s.pc → interruptEntry i s = .fault (.outOfRange s.pc s.out))

/-- Entry followed by IRET restores the interrupted program (spec/60_exceptions.md section 5): whatever a handler did, if it left `SP` and the
nine bytes of the frame as entry left them, IRET resumes the interrupted program with its registers, `FL` and `pc`,
the taken interrupt's bit clear, `SP` as before and interrupts enabled. -/
def Obligations.EntryThenIretRestores : Prop :=
  ∀ (i : Fin 8) (s t t' : State), interruptEntry i s = .next t → t'.reg 7 = t.reg 7 →
    (∀ n, n < 9 → t'.mem.get (t.reg 7 + BitVec.ofNat 8 n).toNat = t.mem.get (t.reg 7 + BitVec.ofNat 8 n).toNat) →
    ∃ u, exec .iret t' = .next u ∧ (∀ k : RegIdx, k ≠ 6 → u.reg k = s.reg k) ∧
      u.reg 6 = s.reg 6 &&& ~~~ (1#8 <<< i.val) ∧ u.fl = s.fl ∧ u.pc = s.pc ∧ u.ie = true

/-- Interrupts do not nest (spec/60_exceptions.md section 5): with `IE` false no step enters a handler, and `IE` comes
back only by IRET, whose opcode is then in `IR`. -/
def Obligations.OnlyIretEnablesInterrupts : Prop :=
  ∀ s t : State, s.ie = false → step s = .next t → (t.ie = true ↔ t.ir = 0x13)

/-- While `IE` is false the tick input is not sampled (spec/60_exceptions.md section 2): two runs that differ only in
this cycle's tick end alike. -/
def Obligations.TickIsIgnoredWhileDisabled : Prop :=
  ∀ (s : State) (a b : Bool) (rest : List Bool), s.ie = false →
    step { s with ticks := a :: rest } = step { s with ticks := b :: rest }

/-! ### Faults over all instructions -/

/-- A register operand above 7 stops the instruction before any effect, the first such operand being reported, taken
jump or not, zero divisor or not (spec/40_execution_cycle.md section 1; outside LDI and PRN it is the spec's decision
D8). -/
def Obligations.BadRegisterOperandFaults : Prop :=
  ∀ (i : Instr) (s : State) (a : Byte), i.regOperands.find? (fun x => decide (7 < x.toNat)) = some a →
    exec i s = .fault (i.operandFault a s.out)

/-- With every register operand in range, every instruction completes, but for a zero divisor and an interrupt number
above 7 (spec/40_execution_cycle.md section 2). -/
def Obligations.GoodOperandsComplete : Prop :=
  ∀ (i : Instr) (s : State), i.wf = true →
    (∀ a (j : RegIdx), i = .div a (regByte j) ∨ i = .mod a (regByte j) → s.reg j ≠ 0) →
    (∀ j : RegIdx, i = .int (regByte j) → (s.reg j).toNat ≤ 7) →
    ∃ t, exec i s = .next t

/-- R177: no state of the machine raises `UnsupportedAluOp`. -/
def Obligations.UnsupportedAluOpIsNeverRaised : Prop :=
  ∀ (s : State) (out : List OutEvent), step s ≠ .fault (.unsupportedAluOp out)

/-- `OutOfRange` comes from the fetch, or from entry with `pc` above 255 (the spec's decision D6), and from no
instruction (spec/20_memory.md section 1, which the spec derives). -/
def Obligations.OutOfRangeComesOnlyFromFetchOrEntry : Prop :=
  (∀ (i : Instr) (s : State) (addr : Nat) (out : List OutEvent), exec i s ≠ .fault (.outOfRange addr out)) ∧
  ∀ (s : State) (addr : Nat) (out : List OutEvent), step s = .fault (.outOfRange addr out) →
    (s.ie = true ∧ 255 < s.pc) ∨ ∃ s1, s.checkedTo s1 ∧ 254 ≤ s1.pc

/-! ### Frames over all instructions -/

/-- Registers: an instruction changes only the register its operand names as destination and those it writes
implicitly (spec/10_state.md R15, spec/30_encoding.md R66). -/
def Obligations.RegistersOutsideDestinationsKeep : Prop :=
  ∀ (i : Instr) (s t : State), exec i s = .next t → ∀ k, k ∉ i.writtenRegs → t.reg k = s.reg k

/-- Memory: every byte but the one that ST, PUSH or CALL stores to reads as before, and an instruction that stores
nothing leaves all of memory (spec/20_memory.md R43). -/
def Obligations.MemoryOutsideTheStoredByteKeeps : Prop :=
  ∀ (i : Instr) (s t : State), exec i s = .next t →
    ∀ a, i.storedAddr s ≠ some a → t.mem.get a = s.mem.get a

/-- Flags: only CMP and IRET change `FL` (spec/10_state.md section 4; C7). -/
def Obligations.FlagsKeepExceptCmpAndIret : Prop :=
  ∀ (i : Instr) (s t : State), exec i s = .next t → i ≠ .iret → (∀ a b, i ≠ .cmp a b) → t.fl = s.fl

/-- The rest of the state: the latches and the model's timer fields never change in dispatch, `IE` only by IRET,
`STATUS` only by HLT, `OUT` only by PRN and PRA, and `pc` only by an instruction whose opcode sets it, INT excepted
(spec/10_state.md R17, R24, R25, R27; INT is the spec's decision D14). -/
def Obligations.ControlStateKeeps : Prop :=
  ∀ (i : Instr) (s t : State), exec i s = .next t →
    t.ir = s.ir ∧ t.opa = s.opa ∧ t.opb = s.opb ∧ t.ticks = s.ticks ∧ t.cycle = s.cycle ∧
    (i ≠ .iret → t.ie = s.ie) ∧ (i ≠ .hlt → t.status = s.status) ∧
    ((∀ a, i ≠ .prn a) → (∀ a, i ≠ .pra a) → t.out = s.out) ∧
    (setsPc i.opcode = false ∨ (∃ a, i = .int a) → t.pc = s.pc)

/-! ### The invariant -/

/-- Every step keeps the invariant: memory in canonical form (log 7), `pc` in 0 to 256 (spec/10_state.md R16, the
spec's decision D5), `STATUS` RUNNING or HALTED (log 5). -/
def Obligations.StepKeepsInvariant : Prop :=
  ∀ s t : State, s.Inv → step s = .next t → t.Inv
end

