-- ==== Sys2Proof/Laws/Memory.lean ====
section
/-! SUPPORT. Memory: read after write, and every write keeps the canonical form. -/

namespace Sys2Proof.Machine

theorem Memory.get_insert (m : Memory) (a b : Nat) (v : Byte) :
    (Memory.insert m a v).get b = if a = b then v else m.get b := by
  induction m with
  | nil => simp [Memory.insert, Memory.get]
  | cons c m ih =>
    obtain ⟨k, w⟩ := c
    unfold Memory.insert
    split
    · simp [Memory.get]
    · split
      · next h => subst h; by_cases hb : k = b <;> simp [Memory.get, hb]
      · next h =>
        by_cases hk : k = b
        · have hab : a ≠ b := fun e => h (hk.trans e.symm)
          simp [Memory.get, hk, hab]
        · simp [Memory.get, hk, ih]

theorem Memory.get_filter (m : Memory) (a b : Nat) :
    Memory.get (m.filter (fun c => c.1 != a)) b = if a = b then 0 else m.get b := by
  induction m with
  | nil => simp [Memory.get]
  | cons c m ih =>
    obtain ⟨k, w⟩ := c
    by_cases hk : k = a
    · subst hk
      rw [List.filter_cons_of_neg (by simp), ih]
      by_cases hb : k = b <;> simp [Memory.get, hb]
    · rw [List.filter_cons_of_pos (by simpa using hk)]
      by_cases hb : k = b
      · have hab : a ≠ b := fun e => hk (hb.trans e.symm)
        simp [Memory.get, hb, hab]
      · simp [Memory.get, hb, ih]

/-- Read after write: the written byte at its address, every other address as before. -/
theorem Memory.get_put (m : Memory) (a b : Nat) (v : Byte) :
    (m.put a v).get b = if a = b then v else m.get b := by
  unfold Memory.put
  split
  · next h => rw [Memory.get_filter, h]
  · exact Memory.get_insert m a b v

@[simp] theorem Memory.get_put_self (m : Memory) (a : Nat) (v : Byte) : (m.put a v).get a = v := by
  simp [Memory.get_put]

theorem Memory.get_put_ne (m : Memory) {a b : Nat} (v : Byte) (h : a ≠ b) : (m.put a v).get b = m.get b := by
  simp [Memory.get_put, h]

theorem Memory.mem_insert {m : Memory} {a : Nat} {v : Byte} {c : Host.Cell} (h : c ∈ Memory.insert m a v) :
    c = (a, v) ∨ c ∈ m := by
  induction m with
  | nil => simpa [Memory.insert] using h
  | cons d m ih =>
    obtain ⟨k, w⟩ := d
    unfold Memory.insert at h
    split at h
    · simpa using h
    · split at h
      · rcases List.mem_cons.1 h with h | h
        · exact .inl h
        · exact .inr (List.mem_cons_of_mem _ h)
      · rcases List.mem_cons.1 h with h | h
        · exact .inr (h ▸ List.mem_cons_self)
        · exact (ih h).imp_right (List.mem_cons_of_mem _)

theorem Memory.pairwise_insert {m : Memory} (a : Nat) (v : Byte) (h : m.Pairwise (fun c d => c.1 < d.1)) :
    (Memory.insert m a v).Pairwise (fun c d => c.1 < d.1) := by
  induction m with
  | nil => simp [Memory.insert]
  | cons d m ih =>
    obtain ⟨k, w⟩ := d
    obtain ⟨hk, hm⟩ := List.pairwise_cons.1 h
    unfold Memory.insert
    split
    · next hak =>
      refine List.pairwise_cons.2 ⟨fun c hc => ?_, h⟩
      rcases List.mem_cons.1 hc with rfl | hc
      · exact hak
      · exact Nat.lt_trans hak (hk c hc)
    · next hak =>
      split
      · next heq => subst heq; exact List.pairwise_cons.2 ⟨hk, hm⟩
      · next hne =>
        refine List.pairwise_cons.2 ⟨fun c hc => ?_, ih hm⟩
        rcases Memory.mem_insert hc with rfl | hc
        · show k < a; omega
        · exact hk c hc

/-- Every write inside the space keeps the canonical form. -/
theorem Memory.put_wf {m : Memory} {a : Nat} (v : Byte) (h : Memory.wf m) (ha : a < Config.memSize) :
    Memory.wf (m.put a v) := by
  obtain ⟨hp, hc⟩ := h
  unfold Memory.put
  split
  · exact ⟨hp.filter _, fun c hm => hc c (List.mem_of_mem_filter hm)⟩
  · next hv =>
    refine ⟨Memory.pairwise_insert a v hp, fun c hm => ?_⟩
    rcases Memory.mem_insert hm with rfl | hm
    · exact ⟨ha, hv⟩
    · exact hc c hm

end Sys2Proof.Machine
end

