-- ==== Sys2Proof/Laws/State.lean ====
section
/-! SUPPORT. One lemma per field per update of the state, so that no proof unfolds a record update. -/

namespace Sys2Proof.Machine

/-- Read after write of a register. -/
theorem State.reg_setReg (s : State) (i j : RegIdx) (v : Byte) :
    (s.setReg i v).reg j = if i = j then v else s.reg j := by
  simp [State.setReg, State.reg, Vector.getElem_set, Fin.ext_iff]

@[simp] theorem State.reg_setReg_self (s : State) (i : RegIdx) (v : Byte) : (s.setReg i v).reg i = v := by
  simp [State.reg_setReg]

theorem State.reg_setReg_ne (s : State) {i j : RegIdx} (v : Byte) (h : i ≠ j) :
    (s.setReg i v).reg j = s.reg j := by
  simp [State.reg_setReg, h]

/-- Two states agree when all their registers and all their other fields do. -/
theorem State.ext_reg {s t : State} (hr : ∀ i, s.reg i = t.reg i) (hpc : s.pc = t.pc) (hir : s.ir = t.ir)
    (ha : s.opa = t.opa) (hb : s.opb = t.opb) (hfl : s.fl = t.fl) (hie : s.ie = t.ie) (hm : s.mem = t.mem)
    (hst : s.status = t.status) (ho : s.out = t.out) (ht : s.ticks = t.ticks) (hc : s.cycle = t.cycle) : s = t := by
  have hregs : s.regs = t.regs := Vector.ext fun k hk => hr ⟨k, hk⟩
  cases s; cases t; simp_all

/-! ### `State.setPc` -/

@[simp] theorem State.setPc_ir (s : State) (n : Nat) : (s.setPc n).ir = s.ir := rfl
@[simp] theorem State.setPc_opa (s : State) (n : Nat) : (s.setPc n).opa = s.opa := rfl
@[simp] theorem State.setPc_opb (s : State) (n : Nat) : (s.setPc n).opb = s.opb := rfl
@[simp] theorem State.setPc_fl (s : State) (n : Nat) : (s.setPc n).fl = s.fl := rfl
@[simp] theorem State.setPc_ie (s : State) (n : Nat) : (s.setPc n).ie = s.ie := rfl
@[simp] theorem State.setPc_mem (s : State) (n : Nat) : (s.setPc n).mem = s.mem := rfl
@[simp] theorem State.setPc_status (s : State) (n : Nat) : (s.setPc n).status = s.status := rfl
@[simp] theorem State.setPc_out (s : State) (n : Nat) : (s.setPc n).out = s.out := rfl
@[simp] theorem State.setPc_ticks (s : State) (n : Nat) : (s.setPc n).ticks = s.ticks := rfl
@[simp] theorem State.setPc_cycle (s : State) (n : Nat) : (s.setPc n).cycle = s.cycle := rfl
@[simp] theorem State.setPc_regs (s : State) (n : Nat) : (s.setPc n).regs = s.regs := rfl
@[simp] theorem State.setPc_reg (s : State) (n : Nat) (j : RegIdx) : (s.setPc n).reg j = s.reg j := rfl

/-! ### `State.setFl` -/

@[simp] theorem State.setFl_pc (s : State) (v : Byte) : (s.setFl v).pc = s.pc := rfl
@[simp] theorem State.setFl_ir (s : State) (v : Byte) : (s.setFl v).ir = s.ir := rfl
@[simp] theorem State.setFl_opa (s : State) (v : Byte) : (s.setFl v).opa = s.opa := rfl
@[simp] theorem State.setFl_opb (s : State) (v : Byte) : (s.setFl v).opb = s.opb := rfl
@[simp] theorem State.setFl_ie (s : State) (v : Byte) : (s.setFl v).ie = s.ie := rfl
@[simp] theorem State.setFl_mem (s : State) (v : Byte) : (s.setFl v).mem = s.mem := rfl
@[simp] theorem State.setFl_status (s : State) (v : Byte) : (s.setFl v).status = s.status := rfl
@[simp] theorem State.setFl_out (s : State) (v : Byte) : (s.setFl v).out = s.out := rfl
@[simp] theorem State.setFl_ticks (s : State) (v : Byte) : (s.setFl v).ticks = s.ticks := rfl
@[simp] theorem State.setFl_cycle (s : State) (v : Byte) : (s.setFl v).cycle = s.cycle := rfl
@[simp] theorem State.setFl_regs (s : State) (v : Byte) : (s.setFl v).regs = s.regs := rfl
@[simp] theorem State.setFl_reg (s : State) (v : Byte) (j : RegIdx) : (s.setFl v).reg j = s.reg j := rfl

/-! ### `State.setIe` -/

@[simp] theorem State.setIe_pc (s : State) (b : Bool) : (s.setIe b).pc = s.pc := rfl
@[simp] theorem State.setIe_ir (s : State) (b : Bool) : (s.setIe b).ir = s.ir := rfl
@[simp] theorem State.setIe_opa (s : State) (b : Bool) : (s.setIe b).opa = s.opa := rfl
@[simp] theorem State.setIe_opb (s : State) (b : Bool) : (s.setIe b).opb = s.opb := rfl
@[simp] theorem State.setIe_fl (s : State) (b : Bool) : (s.setIe b).fl = s.fl := rfl
@[simp] theorem State.setIe_mem (s : State) (b : Bool) : (s.setIe b).mem = s.mem := rfl
@[simp] theorem State.setIe_status (s : State) (b : Bool) : (s.setIe b).status = s.status := rfl
@[simp] theorem State.setIe_out (s : State) (b : Bool) : (s.setIe b).out = s.out := rfl
@[simp] theorem State.setIe_ticks (s : State) (b : Bool) : (s.setIe b).ticks = s.ticks := rfl
@[simp] theorem State.setIe_cycle (s : State) (b : Bool) : (s.setIe b).cycle = s.cycle := rfl
@[simp] theorem State.setIe_regs (s : State) (b : Bool) : (s.setIe b).regs = s.regs := rfl
@[simp] theorem State.setIe_reg (s : State) (b : Bool) (j : RegIdx) : (s.setIe b).reg j = s.reg j := rfl

/-! ### `State.setMem` -/

@[simp] theorem State.setMem_pc (s : State) (m : Memory) : (s.setMem m).pc = s.pc := rfl
@[simp] theorem State.setMem_ir (s : State) (m : Memory) : (s.setMem m).ir = s.ir := rfl
@[simp] theorem State.setMem_opa (s : State) (m : Memory) : (s.setMem m).opa = s.opa := rfl
@[simp] theorem State.setMem_opb (s : State) (m : Memory) : (s.setMem m).opb = s.opb := rfl
@[simp] theorem State.setMem_fl (s : State) (m : Memory) : (s.setMem m).fl = s.fl := rfl
@[simp] theorem State.setMem_ie (s : State) (m : Memory) : (s.setMem m).ie = s.ie := rfl
@[simp] theorem State.setMem_status (s : State) (m : Memory) : (s.setMem m).status = s.status := rfl
@[simp] theorem State.setMem_out (s : State) (m : Memory) : (s.setMem m).out = s.out := rfl
@[simp] theorem State.setMem_ticks (s : State) (m : Memory) : (s.setMem m).ticks = s.ticks := rfl
@[simp] theorem State.setMem_cycle (s : State) (m : Memory) : (s.setMem m).cycle = s.cycle := rfl
@[simp] theorem State.setMem_regs (s : State) (m : Memory) : (s.setMem m).regs = s.regs := rfl
@[simp] theorem State.setMem_reg (s : State) (m : Memory) (j : RegIdx) : (s.setMem m).reg j = s.reg j := rfl

/-! ### `State.setLatches` -/

@[simp] theorem State.setLatches_pc (s : State) (op a b : Byte) : (s.setLatches op a b).pc = s.pc := rfl
@[simp] theorem State.setLatches_fl (s : State) (op a b : Byte) : (s.setLatches op a b).fl = s.fl := rfl
@[simp] theorem State.setLatches_ie (s : State) (op a b : Byte) : (s.setLatches op a b).ie = s.ie := rfl
@[simp] theorem State.setLatches_mem (s : State) (op a b : Byte) : (s.setLatches op a b).mem = s.mem := rfl
@[simp] theorem State.setLatches_status (s : State) (op a b : Byte) : (s.setLatches op a b).status = s.status := rfl
@[simp] theorem State.setLatches_out (s : State) (op a b : Byte) : (s.setLatches op a b).out = s.out := rfl
@[simp] theorem State.setLatches_ticks (s : State) (op a b : Byte) : (s.setLatches op a b).ticks = s.ticks := rfl
@[simp] theorem State.setLatches_cycle (s : State) (op a b : Byte) : (s.setLatches op a b).cycle = s.cycle := rfl
@[simp] theorem State.setLatches_regs (s : State) (op a b : Byte) : (s.setLatches op a b).regs = s.regs := rfl
@[simp] theorem State.setLatches_reg (s : State) (op a b : Byte) (j : RegIdx) : (s.setLatches op a b).reg j = s.reg j := rfl

/-! ### `State.halt` -/

@[simp] theorem State.halt_pc (s : State) : (s.halt).pc = s.pc := rfl
@[simp] theorem State.halt_ir (s : State) : (s.halt).ir = s.ir := rfl
@[simp] theorem State.halt_opa (s : State) : (s.halt).opa = s.opa := rfl
@[simp] theorem State.halt_opb (s : State) : (s.halt).opb = s.opb := rfl
@[simp] theorem State.halt_fl (s : State) : (s.halt).fl = s.fl := rfl
@[simp] theorem State.halt_ie (s : State) : (s.halt).ie = s.ie := rfl
@[simp] theorem State.halt_mem (s : State) : (s.halt).mem = s.mem := rfl
@[simp] theorem State.halt_out (s : State) : (s.halt).out = s.out := rfl
@[simp] theorem State.halt_ticks (s : State) : (s.halt).ticks = s.ticks := rfl
@[simp] theorem State.halt_cycle (s : State) : (s.halt).cycle = s.cycle := rfl
@[simp] theorem State.halt_regs (s : State) : (s.halt).regs = s.regs := rfl
@[simp] theorem State.halt_reg (s : State) (j : RegIdx) : (s.halt).reg j = s.reg j := rfl

/-! ### `State.setReg` -/

@[simp] theorem State.setReg_pc (s : State) (i : RegIdx) (v : Byte) : (s.setReg i v).pc = s.pc := rfl
@[simp] theorem State.setReg_ir (s : State) (i : RegIdx) (v : Byte) : (s.setReg i v).ir = s.ir := rfl
@[simp] theorem State.setReg_opa (s : State) (i : RegIdx) (v : Byte) : (s.setReg i v).opa = s.opa := rfl
@[simp] theorem State.setReg_opb (s : State) (i : RegIdx) (v : Byte) : (s.setReg i v).opb = s.opb := rfl
@[simp] theorem State.setReg_fl (s : State) (i : RegIdx) (v : Byte) : (s.setReg i v).fl = s.fl := rfl
@[simp] theorem State.setReg_ie (s : State) (i : RegIdx) (v : Byte) : (s.setReg i v).ie = s.ie := rfl
@[simp] theorem State.setReg_mem (s : State) (i : RegIdx) (v : Byte) : (s.setReg i v).mem = s.mem := rfl
@[simp] theorem State.setReg_status (s : State) (i : RegIdx) (v : Byte) : (s.setReg i v).status = s.status := rfl
@[simp] theorem State.setReg_out (s : State) (i : RegIdx) (v : Byte) : (s.setReg i v).out = s.out := rfl
@[simp] theorem State.setReg_ticks (s : State) (i : RegIdx) (v : Byte) : (s.setReg i v).ticks = s.ticks := rfl
@[simp] theorem State.setReg_cycle (s : State) (i : RegIdx) (v : Byte) : (s.setReg i v).cycle = s.cycle := rfl

/-! ### `State.jump` -/

@[simp] theorem State.jump_ir (s : State) (v : Byte) : (s.jump v).ir = s.ir := rfl
@[simp] theorem State.jump_opa (s : State) (v : Byte) : (s.jump v).opa = s.opa := rfl
@[simp] theorem State.jump_opb (s : State) (v : Byte) : (s.jump v).opb = s.opb := rfl
@[simp] theorem State.jump_fl (s : State) (v : Byte) : (s.jump v).fl = s.fl := rfl
@[simp] theorem State.jump_ie (s : State) (v : Byte) : (s.jump v).ie = s.ie := rfl
@[simp] theorem State.jump_mem (s : State) (v : Byte) : (s.jump v).mem = s.mem := rfl
@[simp] theorem State.jump_status (s : State) (v : Byte) : (s.jump v).status = s.status := rfl
@[simp] theorem State.jump_out (s : State) (v : Byte) : (s.jump v).out = s.out := rfl
@[simp] theorem State.jump_ticks (s : State) (v : Byte) : (s.jump v).ticks = s.ticks := rfl
@[simp] theorem State.jump_cycle (s : State) (v : Byte) : (s.jump v).cycle = s.cycle := rfl
@[simp] theorem State.jump_regs (s : State) (v : Byte) : (s.jump v).regs = s.regs := rfl
@[simp] theorem State.jump_reg (s : State) (v : Byte) (j : RegIdx) : (s.jump v).reg j = s.reg j := rfl

/-! ### `State.emit` -/

@[simp] theorem State.emit_pc (s : State) (e : OutEvent) : (s.emit e).pc = s.pc := rfl
@[simp] theorem State.emit_ir (s : State) (e : OutEvent) : (s.emit e).ir = s.ir := rfl
@[simp] theorem State.emit_opa (s : State) (e : OutEvent) : (s.emit e).opa = s.opa := rfl
@[simp] theorem State.emit_opb (s : State) (e : OutEvent) : (s.emit e).opb = s.opb := rfl
@[simp] theorem State.emit_fl (s : State) (e : OutEvent) : (s.emit e).fl = s.fl := rfl
@[simp] theorem State.emit_ie (s : State) (e : OutEvent) : (s.emit e).ie = s.ie := rfl
@[simp] theorem State.emit_mem (s : State) (e : OutEvent) : (s.emit e).mem = s.mem := rfl
@[simp] theorem State.emit_status (s : State) (e : OutEvent) : (s.emit e).status = s.status := rfl
@[simp] theorem State.emit_ticks (s : State) (e : OutEvent) : (s.emit e).ticks = s.ticks := rfl
@[simp] theorem State.emit_cycle (s : State) (e : OutEvent) : (s.emit e).cycle = s.cycle := rfl
@[simp] theorem State.emit_regs (s : State) (e : OutEvent) : (s.emit e).regs = s.regs := rfl
@[simp] theorem State.emit_reg (s : State) (e : OutEvent) (j : RegIdx) : (s.emit e).reg j = s.reg j := rfl

/-! ### `State.raiseIrq` -/

@[simp] theorem State.raiseIrq_pc (s : State) (n : Fin 8) : (s.raiseIrq n).pc = s.pc := rfl
@[simp] theorem State.raiseIrq_ir (s : State) (n : Fin 8) : (s.raiseIrq n).ir = s.ir := rfl
@[simp] theorem State.raiseIrq_opa (s : State) (n : Fin 8) : (s.raiseIrq n).opa = s.opa := rfl
@[simp] theorem State.raiseIrq_opb (s : State) (n : Fin 8) : (s.raiseIrq n).opb = s.opb := rfl
@[simp] theorem State.raiseIrq_fl (s : State) (n : Fin 8) : (s.raiseIrq n).fl = s.fl := rfl
@[simp] theorem State.raiseIrq_ie (s : State) (n : Fin 8) : (s.raiseIrq n).ie = s.ie := rfl
@[simp] theorem State.raiseIrq_mem (s : State) (n : Fin 8) : (s.raiseIrq n).mem = s.mem := rfl
@[simp] theorem State.raiseIrq_status (s : State) (n : Fin 8) : (s.raiseIrq n).status = s.status := rfl
@[simp] theorem State.raiseIrq_out (s : State) (n : Fin 8) : (s.raiseIrq n).out = s.out := rfl
@[simp] theorem State.raiseIrq_ticks (s : State) (n : Fin 8) : (s.raiseIrq n).ticks = s.ticks := rfl
@[simp] theorem State.raiseIrq_cycle (s : State) (n : Fin 8) : (s.raiseIrq n).cycle = s.cycle := rfl

/-! ### `State.clearIrq` -/

@[simp] theorem State.clearIrq_pc (s : State) (n : Fin 8) : (s.clearIrq n).pc = s.pc := rfl
@[simp] theorem State.clearIrq_ir (s : State) (n : Fin 8) : (s.clearIrq n).ir = s.ir := rfl
@[simp] theorem State.clearIrq_opa (s : State) (n : Fin 8) : (s.clearIrq n).opa = s.opa := rfl
@[simp] theorem State.clearIrq_opb (s : State) (n : Fin 8) : (s.clearIrq n).opb = s.opb := rfl
@[simp] theorem State.clearIrq_fl (s : State) (n : Fin 8) : (s.clearIrq n).fl = s.fl := rfl
@[simp] theorem State.clearIrq_ie (s : State) (n : Fin 8) : (s.clearIrq n).ie = s.ie := rfl
@[simp] theorem State.clearIrq_mem (s : State) (n : Fin 8) : (s.clearIrq n).mem = s.mem := rfl
@[simp] theorem State.clearIrq_status (s : State) (n : Fin 8) : (s.clearIrq n).status = s.status := rfl
@[simp] theorem State.clearIrq_out (s : State) (n : Fin 8) : (s.clearIrq n).out = s.out := rfl
@[simp] theorem State.clearIrq_ticks (s : State) (n : Fin 8) : (s.clearIrq n).ticks = s.ticks := rfl
@[simp] theorem State.clearIrq_cycle (s : State) (n : Fin 8) : (s.clearIrq n).cycle = s.cycle := rfl

/-! ### `State.nextTick` -/

@[simp] theorem State.nextTick_pc (s : State) : (s.nextTick).pc = s.pc := rfl
@[simp] theorem State.nextTick_ir (s : State) : (s.nextTick).ir = s.ir := rfl
@[simp] theorem State.nextTick_opa (s : State) : (s.nextTick).opa = s.opa := rfl
@[simp] theorem State.nextTick_opb (s : State) : (s.nextTick).opb = s.opb := rfl
@[simp] theorem State.nextTick_fl (s : State) : (s.nextTick).fl = s.fl := rfl
@[simp] theorem State.nextTick_ie (s : State) : (s.nextTick).ie = s.ie := rfl
@[simp] theorem State.nextTick_mem (s : State) : (s.nextTick).mem = s.mem := rfl
@[simp] theorem State.nextTick_status (s : State) : (s.nextTick).status = s.status := rfl
@[simp] theorem State.nextTick_out (s : State) : (s.nextTick).out = s.out := rfl
@[simp] theorem State.nextTick_regs (s : State) : (s.nextTick).regs = s.regs := rfl
@[simp] theorem State.nextTick_reg (s : State) (j : RegIdx) : (s.nextTick).reg j = s.reg j := rfl

@[simp] theorem State.setPc_pc (s : State) (n : Nat) : (s.setPc n).pc = n := rfl
@[simp] theorem State.setFl_fl (s : State) (v : Byte) : (s.setFl v).fl = v := rfl
@[simp] theorem State.setIe_ie (s : State) (b : Bool) : (s.setIe b).ie = b := rfl
@[simp] theorem State.setMem_mem (s : State) (m : Memory) : (s.setMem m).mem = m := rfl
@[simp] theorem State.setLatches_ir (s : State) (op a b : Byte) : (s.setLatches op a b).ir = op := rfl
@[simp] theorem State.setLatches_opa (s : State) (op a b : Byte) : (s.setLatches op a b).opa = a := rfl
@[simp] theorem State.setLatches_opb (s : State) (op a b : Byte) : (s.setLatches op a b).opb = b := rfl
@[simp] theorem State.halt_status (s : State) : s.halt.status = .halted := rfl
@[simp] theorem State.jump_pc (s : State) (v : Byte) : (s.jump v).pc = v.toNat := rfl
@[simp] theorem State.emit_out (s : State) (e : OutEvent) : (s.emit e).out = s.out ++ [e] := rfl
@[simp] theorem State.nextTick_ticks (s : State) : s.nextTick.ticks = s.ticks.tail := rfl
@[simp] theorem State.nextTick_cycle (s : State) : s.nextTick.cycle = s.cycle + 1 := rfl

theorem State.raiseIrq_reg (s : State) (n : Fin 8) (j : RegIdx) :
    (s.raiseIrq n).reg j = if Config.isReg = j then s.reg Config.isReg ||| irqBit n else s.reg j :=
  State.reg_setReg _ _ _ _

theorem State.clearIrq_reg (s : State) (n : Fin 8) (j : RegIdx) :
    (s.clearIrq n).reg j = if Config.isReg = j then s.reg Config.isReg &&& ~~~ irqBit n else s.reg j :=
  State.reg_setReg _ _ _ _

end Sys2Proof.Machine
end

