-- ==== Sys2Proof/Laws/Ops.lean ====
section
/-! SUPPORT. For each shared operation, once, what it answers and everything it changes. -/

namespace Sys2Proof.Machine

/-! ### Sequencing -/

@[simp] theorem andThen_next {α β : Type} (x : α) (f : α → Res β) : andThen (.next x) f = f x := rfl
@[simp] theorem andThen_fault {α β : Type} (k : Fault) (f : α → Res β) : andThen (.fault k) f = .fault k := rfl
@[simp] theorem andThen_refused {α β : Type} (k : Refusal) (f : α → Res β) : andThen (.refused k) f = .refused k := rfl

/-- Inversion: a sequence answers a next state only through both its parts. -/
theorem andThen_eq_next {α β : Type} {r : Res α} {f : α → Res β} {y : β} :
    andThen r f = .next y ↔ ∃ x, r = .next x ∧ f x = .next y := by
  cases r <;> simp

theorem andThen_eq_fault {α β : Type} {r : Res α} {f : α → Res β} {k : Fault} :
    andThen r f = .fault k ↔ r = .fault k ∨ ∃ x, r = .next x ∧ f x = .fault k := by
  cases r <;> simp

theorem andThen_eq_refused {α β : Type} {r : Res α} {f : α → Res β} {k : Refusal} :
    andThen r f = .refused k ↔ r = .refused k ∨ ∃ x, r = .next x ∧ f x = .refused k := by
  cases r <;> simp

/-! ### Truncation -/

/-- Truncation keeps the value modulo 256. -/
theorem toNat_trunc8 (v : Int) : ((trunc8 v).toNat : Int) = v % 256 := by
  simp [trunc8, BitVec.toNat_ofInt, Int.toNat_of_nonneg (Int.emod_nonneg v (by decide : (256 : Int) ≠ 0))]

/-- A byte's own value is not changed by truncation. -/
@[simp] theorem trunc8_toNat (x : Byte) : trunc8 (x.toNat : Int) = x := by
  apply BitVec.eq_of_toNat_eq
  have := toNat_trunc8 (x.toNat : Int)
  have := x.isLt
  omega

/-! ### Memory access -/

@[simp] theorem memRead_of_lt {addr : Nat} (h : addr < 256) (s : State) : memRead addr s = .next (s.mem.get addr) := by
  simp [memRead, h]

theorem memRead_of_ge {addr : Nat} (h : 256 ≤ addr) (s : State) : memRead addr s = .fault (.outOfRange addr s.out) := by
  simp [memRead, Nat.not_lt.2 h]

@[simp] theorem memWrite_of_lt {addr : Nat} (h : addr < 256) (v : Byte) (s : State) :
    memWrite addr v s = .next (s.setMem (s.mem.put addr v)) := by
  simp [memWrite, h]

/-- An address that a byte holds is inside the space. -/
theorem byte_lt_memSize (v : Byte) : v.toNat < 256 := v.isLt

/-! ### The stack -/

/-- The state after a push: `SP` one less, the byte at the address it then holds. -/
abbrev pushed (v : Byte) (s : State) : State :=
  (s.setReg Config.spReg (pushedSp s)).setMem (s.mem.put (pushedSp s).toNat v)

/-- A push never faults (spec/20_memory.md R44). -/
theorem push_eq (v : Byte) (s : State) : push v s = .next (pushed v s) := by
  simp [push, memWrite_of_lt (byte_lt_memSize _)]

/-- The state after a pop: `SP` one more. -/
abbrev popped (s : State) : State := s.setReg Config.spReg (poppedSp s)

/-- A pop never faults (spec/20_memory.md R44). -/
theorem pop_eq (s : State) :
    pop s = .next (s.mem.get (s.reg Config.spReg).toNat, popped s) := by
  simp [pop, memRead_of_lt (byte_lt_memSize _)]

theorem pushedSp_eq (s : State) : pushedSp s = s.reg Config.spReg - 1 := by
  unfold pushedSp; generalize s.reg Config.spReg = x; revert x; decide

theorem poppedSp_eq (s : State) : poppedSp s = s.reg Config.spReg + 1 := by
  unfold poppedSp; generalize s.reg Config.spReg = x; revert x; decide

/-! ### Register operands -/

@[simp] theorem regOperand?_regByte (i : RegIdx) : regOperand? (regByte i) = some i := by
  revert i; decide

/-- A byte names a register exactly when it is that register's operand byte. -/
theorem regOperand?_eq_some {a : Byte} {i : RegIdx} : regOperand? a = some i ↔ a = regByte i := by
  constructor
  · intro h
    unfold regOperand? at h
    split at h
    · cases h; simp [regByte]
    · cases h
  · rintro rfl; exact regOperand?_regByte i

theorem regOperand?_eq_none {a : Byte} : regOperand? a = none ↔ 8 ≤ a.toNat := by
  unfold regOperand?; split <;> simp <;> omega

@[simp] theorem withReg_regByte (i : RegIdx) (s : State) (k : RegIdx → Res State) :
    withReg (regByte i) s k = k i := by
  simp [withReg]

@[simp] theorem withValidatedReg_regByte (i : RegIdx) (s : State) (k : RegIdx → Res State) :
    withValidatedReg (regByte i) s k = k i := by
  simp [withValidatedReg]

theorem withReg_bad {a : Byte} (h : 8 ≤ a.toNat) (s : State) (k : RegIdx → Res State) :
    withReg a s k = .fault (.registerIndexOutOfRange a s.out) := by
  simp [withReg, regOperand?_eq_none.2 h]

theorem withValidatedReg_bad {a : Byte} (h : 8 ≤ a.toNat) (s : State) (k : RegIdx → Res State) :
    withValidatedReg a s k = .fault (.invalidRegister a s.out) := by
  simp [withValidatedReg, regOperand?_eq_none.2 h]

/-- Inversion: past the operand check, the operand names a register. -/
theorem withReg_eq_next {a : Byte} {s t : State} {k : RegIdx → Res State} :
    withReg a s k = .next t ↔ ∃ i, a = regByte i ∧ k i = .next t := by
  rcases Nat.lt_or_ge a.toNat 8 with h | h
  · have ha : a = regByte ⟨a.toNat, h⟩ := by simp [regByte]
    constructor
    · intro hk; rw [ha, withReg_regByte] at hk; exact ⟨_, ha, hk⟩
    · rintro ⟨i, rfl, hk⟩; simpa using hk
  · rw [withReg_bad h]
    constructor
    · intro hk; cases hk
    · rintro ⟨i, hi, _⟩
      have := regOperand?_eq_some.2 hi
      rw [regOperand?_eq_none.2 h] at this; cases this

theorem withValidatedReg_eq_next {a : Byte} {s t : State} {k : RegIdx → Res State} :
    withValidatedReg a s k = .next t ↔ ∃ i, a = regByte i ∧ k i = .next t := by
  rcases Nat.lt_or_ge a.toNat 8 with h | h
  · have ha : a = regByte ⟨a.toNat, h⟩ := by simp [regByte]
    constructor
    · intro hk; rw [ha, withValidatedReg_regByte] at hk; exact ⟨_, ha, hk⟩
    · rintro ⟨i, rfl, hk⟩; simpa using hk
  · rw [withValidatedReg_bad h]
    constructor
    · intro hk; cases hk
    · rintro ⟨i, hi, _⟩
      have := regOperand?_eq_some.2 hi
      rw [regOperand?_eq_none.2 h] at this; cases this

/-! ### Sequences of pushes and pops -/

/-- The state after pushing the named registers. -/
def pushedRegs : List RegIdx → State → State
  | [], s => s
  | i :: is, s => pushedRegs is (pushed (s.reg i) s)

theorem pushRegs_eq (is : List RegIdx) (s : State) : pushRegs is s = .next (pushedRegs is s) := by
  induction is generalizing s with
  | nil => rfl
  | cons i is ih => simp [pushRegs, pushedRegs, push_eq, ih]

/-- The state after popping into the named registers. -/
def poppedRegs : List RegIdx → State → State
  | [], s => s
  | i :: is, s => poppedRegs is ((popped s).setReg i (s.mem.get (s.reg Config.spReg).toNat))

theorem popRegs_eq (is : List RegIdx) (s : State) : popRegs is s = .next (poppedRegs is s) := by
  induction is generalizing s with
  | nil => rfl
  | cons i is ih => simp [popRegs, poppedRegs, pop_eq, ih]

/-! Pushing changes `SP` and memory, popping changes `SP` and the named registers, and nothing else. -/

@[simp] theorem pushedRegs_pc (is : List RegIdx) (s : State) : (pushedRegs is s).pc = s.pc := by
  induction is generalizing s with
  | nil => rfl
  | cons i is ih => simp [pushedRegs, ih]

@[simp] theorem pushedRegs_ir (is : List RegIdx) (s : State) : (pushedRegs is s).ir = s.ir := by
  induction is generalizing s with
  | nil => rfl
  | cons i is ih => simp [pushedRegs, ih]

@[simp] theorem pushedRegs_opa (is : List RegIdx) (s : State) : (pushedRegs is s).opa = s.opa := by
  induction is generalizing s with
  | nil => rfl
  | cons i is ih => simp [pushedRegs, ih]

@[simp] theorem pushedRegs_opb (is : List RegIdx) (s : State) : (pushedRegs is s).opb = s.opb := by
  induction is generalizing s with
  | nil => rfl
  | cons i is ih => simp [pushedRegs, ih]

@[simp] theorem pushedRegs_fl (is : List RegIdx) (s : State) : (pushedRegs is s).fl = s.fl := by
  induction is generalizing s with
  | nil => rfl
  | cons i is ih => simp [pushedRegs, ih]

@[simp] theorem pushedRegs_ie (is : List RegIdx) (s : State) : (pushedRegs is s).ie = s.ie := by
  induction is generalizing s with
  | nil => rfl
  | cons i is ih => simp [pushedRegs, ih]

@[simp] theorem pushedRegs_status (is : List RegIdx) (s : State) : (pushedRegs is s).status = s.status := by
  induction is generalizing s with
  | nil => rfl
  | cons i is ih => simp [pushedRegs, ih]

@[simp] theorem pushedRegs_out (is : List RegIdx) (s : State) : (pushedRegs is s).out = s.out := by
  induction is generalizing s with
  | nil => rfl
  | cons i is ih => simp [pushedRegs, ih]

@[simp] theorem pushedRegs_ticks (is : List RegIdx) (s : State) : (pushedRegs is s).ticks = s.ticks := by
  induction is generalizing s with
  | nil => rfl
  | cons i is ih => simp [pushedRegs, ih]

@[simp] theorem pushedRegs_cycle (is : List RegIdx) (s : State) : (pushedRegs is s).cycle = s.cycle := by
  induction is generalizing s with
  | nil => rfl
  | cons i is ih => simp [pushedRegs, ih]

@[simp] theorem poppedRegs_pc (is : List RegIdx) (s : State) : (poppedRegs is s).pc = s.pc := by
  induction is generalizing s with
  | nil => rfl
  | cons i is ih => simp [poppedRegs, ih]

@[simp] theorem poppedRegs_ir (is : List RegIdx) (s : State) : (poppedRegs is s).ir = s.ir := by
  induction is generalizing s with
  | nil => rfl
  | cons i is ih => simp [poppedRegs, ih]

@[simp] theorem poppedRegs_opa (is : List RegIdx) (s : State) : (poppedRegs is s).opa = s.opa := by
  induction is generalizing s with
  | nil => rfl
  | cons i is ih => simp [poppedRegs, ih]

@[simp] theorem poppedRegs_opb (is : List RegIdx) (s : State) : (poppedRegs is s).opb = s.opb := by
  induction is generalizing s with
  | nil => rfl
  | cons i is ih => simp [poppedRegs, ih]

@[simp] theorem poppedRegs_fl (is : List RegIdx) (s : State) : (poppedRegs is s).fl = s.fl := by
  induction is generalizing s with
  | nil => rfl
  | cons i is ih => simp [poppedRegs, ih]

@[simp] theorem poppedRegs_ie (is : List RegIdx) (s : State) : (poppedRegs is s).ie = s.ie := by
  induction is generalizing s with
  | nil => rfl
  | cons i is ih => simp [poppedRegs, ih]

@[simp] theorem poppedRegs_status (is : List RegIdx) (s : State) : (poppedRegs is s).status = s.status := by
  induction is generalizing s with
  | nil => rfl
  | cons i is ih => simp [poppedRegs, ih]

@[simp] theorem poppedRegs_out (is : List RegIdx) (s : State) : (poppedRegs is s).out = s.out := by
  induction is generalizing s with
  | nil => rfl
  | cons i is ih => simp [poppedRegs, ih]

@[simp] theorem poppedRegs_ticks (is : List RegIdx) (s : State) : (poppedRegs is s).ticks = s.ticks := by
  induction is generalizing s with
  | nil => rfl
  | cons i is ih => simp [poppedRegs, ih]

@[simp] theorem poppedRegs_cycle (is : List RegIdx) (s : State) : (poppedRegs is s).cycle = s.cycle := by
  induction is generalizing s with
  | nil => rfl
  | cons i is ih => simp [poppedRegs, ih]

@[simp] theorem poppedRegs_mem (is : List RegIdx) (s : State) : (poppedRegs is s).mem = s.mem := by
  induction is generalizing s with
  | nil => rfl
  | cons i is ih => simp [poppedRegs, ih]

theorem pushedRegs_reg_ne (is : List RegIdx) (s : State) {k : RegIdx} (hk : Config.spReg ≠ k) :
    (pushedRegs is s).reg k = s.reg k := by
  induction is generalizing s with
  | nil => rfl
  | cons i is ih => simp [pushedRegs, ih, State.reg_setReg_ne _ _ hk]

/-! ### Interrupt entry and return -/

/-- The state in which interrupt entry reads the vector. -/
def enteredFrame (i : Fin 8) (s : State) : State :=
  let s1 := pushed (trunc8 s.pc) ((s.setIe false).clearIrq i)
  pushedRegs [0, 1, 2, 3, 4, 5, 6] (pushed s1.fl s1)

/-- Interrupt entry answers a next state whenever `pc` fits a byte (spec/60_exceptions.md R185). -/
theorem interruptEntry_eq (i : Fin 8) {s : State} (h : s.pc ≤ 255) :
    interruptEntry i s =
      .next ((enteredFrame i s).jump ((enteredFrame i s).mem.get (Config.vectorBase + i.val))) := by
  have hv : Config.vectorBase + i.val < 256 := by have := i.isLt; simp only [Config.vectorBase]; omega
  simp [interruptEntry, Nat.not_lt.2 h, push_eq, pushRegs_eq, enteredFrame, memRead_of_lt hv]

theorem interruptEntry_fault (i : Fin 8) {s : State} (h : 255 < s.pc) :
    interruptEntry i s = .fault (.outOfRange s.pc s.out) := by
  simp [interruptEntry, h]

/-- The state after the seven registers of a frame are popped. -/
def returnedRegs (s : State) : State := poppedRegs [6, 5, 4, 3, 2, 1, 0] s

/-- Return from an interrupt always answers a next state (spec/45_system.md R163). -/
theorem interruptReturn_eq (s : State) :
    interruptReturn s =
      let s1 := returnedRegs s
      let s2 := (popped s1).setFl (s1.mem.get (s1.reg Config.spReg).toNat)
      .next (((popped s2).jump (s2.mem.get (s2.reg Config.spReg).toNat)).setIe true) := by
  simp [interruptReturn, popRegs_eq, pop_eq, returnedRegs]

/-! ### The interrupt check -/

@[simp] theorem interruptCheck_disabled {s : State} (h : s.ie = false) (tick : Bool) :
    interruptCheck tick s = .next s := by
  simp [interruptCheck, h]

/-- The state after the timer step (spec/60_exceptions.md R182). -/
def timerStep (tick : Bool) (s : State) : State := if tick then s.raiseIrq Config.timerIrq else s

theorem interruptCheck_enabled {s : State} (h : s.ie = true) (tick : Bool) :
    interruptCheck tick s =
      match pendingIrq (timerStep tick s) with
      | some i => interruptEntry i (timerStep tick s)
      | none => .next (timerStep tick s) := by
  simp only [interruptCheck, h, if_true]; rfl

/-! ### Fetch -/

theorem fetch_eq {s : State} (h : s.pc ≤ 253) :
    fetch s = .next (s.setLatches (s.mem.get s.pc) (s.mem.get (s.pc + 1)) (s.mem.get (s.pc + 2))) := by
  simp [fetch, memRead_of_lt (show s.pc < 256 by omega), memRead_of_lt (show s.pc + 1 < 256 by omega),
    memRead_of_lt (show s.pc + 2 < 256 by omega)]

/-- Inversion of the fetch: the three reads are in range and only the latches change. -/
theorem fetch_eq_next {s t : State} :
    fetch s = .next t ↔ s.pc ≤ 253 ∧
      t = s.setLatches (s.mem.get s.pc) (s.mem.get (s.pc + 1)) (s.mem.get (s.pc + 2)) := by
  rcases Nat.lt_or_ge 253 s.pc with h | h
  · refine ⟨fun hf => ?_, fun hf => absurd hf.1 (Nat.not_le.2 h)⟩
    obtain ⟨_, _, hf⟩ := andThen_eq_next.1 hf
    obtain ⟨_, _, hf⟩ := andThen_eq_next.1 hf
    obtain ⟨_, hr, _⟩ := andThen_eq_next.1 hf
    rw [memRead_of_ge (by omega)] at hr; cases hr
  · rw [fetch_eq h]
    exact ⟨fun hf => ⟨h, by cases hf; rfl⟩, fun hf => by rw [hf.2]⟩

end Sys2Proof.Machine
end

