-- ==== Sys2Proof/Laws/PerInstr.lean ====
section
/-! SUPPORT. Per-instruction laws: one lemma per constructor of `Instr`. -/

/-- An instruction occupies as many bytes as bits 7 to 6 of its opcode say (spec/30_encoding.md R62). -/
def Sys2Proof.Laws.EncodedLength.Statement (i : Sys2Proof.Instr) : Prop :=
  (Sys2Proof.encode i).length = 1 + Sys2Proof.operandCount i.opcode

theorem Sys2Proof.Laws.EncodedLength.nop : Sys2Proof.Laws.EncodedLength.Statement Sys2Proof.Instr.nop :=
  (by decide : 1 = 1 + Sys2Proof.operandCount 0x00)
theorem Sys2Proof.Laws.EncodedLength.hlt : Sys2Proof.Laws.EncodedLength.Statement Sys2Proof.Instr.hlt :=
  (by decide : 1 = 1 + Sys2Proof.operandCount 0x01)
theorem Sys2Proof.Laws.EncodedLength.ret : Sys2Proof.Laws.EncodedLength.Statement Sys2Proof.Instr.ret :=
  (by decide : 1 = 1 + Sys2Proof.operandCount 0x11)
theorem Sys2Proof.Laws.EncodedLength.iret : Sys2Proof.Laws.EncodedLength.Statement Sys2Proof.Instr.iret :=
  (by decide : 1 = 1 + Sys2Proof.operandCount 0x13)
theorem Sys2Proof.Laws.EncodedLength.push (a : Sys2Proof.Byte) : Sys2Proof.Laws.EncodedLength.Statement (Sys2Proof.Instr.push a) :=
  (by decide : 2 = 1 + Sys2Proof.operandCount 0x45)
theorem Sys2Proof.Laws.EncodedLength.pop (a : Sys2Proof.Byte) : Sys2Proof.Laws.EncodedLength.Statement (Sys2Proof.Instr.pop a) :=
  (by decide : 2 = 1 + Sys2Proof.operandCount 0x46)
theorem Sys2Proof.Laws.EncodedLength.prn (a : Sys2Proof.Byte) : Sys2Proof.Laws.EncodedLength.Statement (Sys2Proof.Instr.prn a) :=
  (by decide : 2 = 1 + Sys2Proof.operandCount 0x47)
theorem Sys2Proof.Laws.EncodedLength.pra (a : Sys2Proof.Byte) : Sys2Proof.Laws.EncodedLength.Statement (Sys2Proof.Instr.pra a) :=
  (by decide : 2 = 1 + Sys2Proof.operandCount 0x48)
theorem Sys2Proof.Laws.EncodedLength.call (a : Sys2Proof.Byte) : Sys2Proof.Laws.EncodedLength.Statement (Sys2Proof.Instr.call a) :=
  (by decide : 2 = 1 + Sys2Proof.operandCount 0x50)
theorem Sys2Proof.Laws.EncodedLength.int (a : Sys2Proof.Byte) : Sys2Proof.Laws.EncodedLength.Statement (Sys2Proof.Instr.int a) :=
  (by decide : 2 = 1 + Sys2Proof.operandCount 0x52)
theorem Sys2Proof.Laws.EncodedLength.jmp (a : Sys2Proof.Byte) : Sys2Proof.Laws.EncodedLength.Statement (Sys2Proof.Instr.jmp a) :=
  (by decide : 2 = 1 + Sys2Proof.operandCount 0x54)
theorem Sys2Proof.Laws.EncodedLength.jeq (a : Sys2Proof.Byte) : Sys2Proof.Laws.EncodedLength.Statement (Sys2Proof.Instr.jeq a) :=
  (by decide : 2 = 1 + Sys2Proof.operandCount 0x55)
theorem Sys2Proof.Laws.EncodedLength.jne (a : Sys2Proof.Byte) : Sys2Proof.Laws.EncodedLength.Statement (Sys2Proof.Instr.jne a) :=
  (by decide : 2 = 1 + Sys2Proof.operandCount 0x56)
theorem Sys2Proof.Laws.EncodedLength.jgt (a : Sys2Proof.Byte) : Sys2Proof.Laws.EncodedLength.Statement (Sys2Proof.Instr.jgt a) :=
  (by decide : 2 = 1 + Sys2Proof.operandCount 0x57)
theorem Sys2Proof.Laws.EncodedLength.jlt (a : Sys2Proof.Byte) : Sys2Proof.Laws.EncodedLength.Statement (Sys2Proof.Instr.jlt a) :=
  (by decide : 2 = 1 + Sys2Proof.operandCount 0x58)
theorem Sys2Proof.Laws.EncodedLength.jle (a : Sys2Proof.Byte) : Sys2Proof.Laws.EncodedLength.Statement (Sys2Proof.Instr.jle a) :=
  (by decide : 2 = 1 + Sys2Proof.operandCount 0x59)
theorem Sys2Proof.Laws.EncodedLength.jge (a : Sys2Proof.Byte) : Sys2Proof.Laws.EncodedLength.Statement (Sys2Proof.Instr.jge a) :=
  (by decide : 2 = 1 + Sys2Proof.operandCount 0x5A)
theorem Sys2Proof.Laws.EncodedLength.inc (a : Sys2Proof.Byte) : Sys2Proof.Laws.EncodedLength.Statement (Sys2Proof.Instr.inc a) :=
  (by decide : 2 = 1 + Sys2Proof.operandCount 0x65)
theorem Sys2Proof.Laws.EncodedLength.dec (a : Sys2Proof.Byte) : Sys2Proof.Laws.EncodedLength.Statement (Sys2Proof.Instr.dec a) :=
  (by decide : 2 = 1 + Sys2Proof.operandCount 0x66)
theorem Sys2Proof.Laws.EncodedLength.not (a : Sys2Proof.Byte) : Sys2Proof.Laws.EncodedLength.Statement (Sys2Proof.Instr.not a) :=
  (by decide : 2 = 1 + Sys2Proof.operandCount 0x69)
theorem Sys2Proof.Laws.EncodedLength.ldi (a b : Sys2Proof.Byte) : Sys2Proof.Laws.EncodedLength.Statement (Sys2Proof.Instr.ldi a b) :=
  (by decide : 3 = 1 + Sys2Proof.operandCount 0x82)
theorem Sys2Proof.Laws.EncodedLength.ld (a b : Sys2Proof.Byte) : Sys2Proof.Laws.EncodedLength.Statement (Sys2Proof.Instr.ld a b) :=
  (by decide : 3 = 1 + Sys2Proof.operandCount 0x83)
theorem Sys2Proof.Laws.EncodedLength.st (a b : Sys2Proof.Byte) : Sys2Proof.Laws.EncodedLength.Statement (Sys2Proof.Instr.st a b) :=
  (by decide : 3 = 1 + Sys2Proof.operandCount 0x84)
theorem Sys2Proof.Laws.EncodedLength.add (a b : Sys2Proof.Byte) : Sys2Proof.Laws.EncodedLength.Statement (Sys2Proof.Instr.add a b) :=
  (by decide : 3 = 1 + Sys2Proof.operandCount 0xA0)
theorem Sys2Proof.Laws.EncodedLength.sub (a b : Sys2Proof.Byte) : Sys2Proof.Laws.EncodedLength.Statement (Sys2Proof.Instr.sub a b) :=
  (by decide : 3 = 1 + Sys2Proof.operandCount 0xA1)
theorem Sys2Proof.Laws.EncodedLength.mul (a b : Sys2Proof.Byte) : Sys2Proof.Laws.EncodedLength.Statement (Sys2Proof.Instr.mul a b) :=
  (by decide : 3 = 1 + Sys2Proof.operandCount 0xA2)
theorem Sys2Proof.Laws.EncodedLength.div (a b : Sys2Proof.Byte) : Sys2Proof.Laws.EncodedLength.Statement (Sys2Proof.Instr.div a b) :=
  (by decide : 3 = 1 + Sys2Proof.operandCount 0xA3)
theorem Sys2Proof.Laws.EncodedLength.mod (a b : Sys2Proof.Byte) : Sys2Proof.Laws.EncodedLength.Statement (Sys2Proof.Instr.mod a b) :=
  (by decide : 3 = 1 + Sys2Proof.operandCount 0xA4)
theorem Sys2Proof.Laws.EncodedLength.cmp (a b : Sys2Proof.Byte) : Sys2Proof.Laws.EncodedLength.Statement (Sys2Proof.Instr.cmp a b) :=
  (by decide : 3 = 1 + Sys2Proof.operandCount 0xA7)
theorem Sys2Proof.Laws.EncodedLength.and (a b : Sys2Proof.Byte) : Sys2Proof.Laws.EncodedLength.Statement (Sys2Proof.Instr.and a b) :=
  (by decide : 3 = 1 + Sys2Proof.operandCount 0xA8)
theorem Sys2Proof.Laws.EncodedLength.or (a b : Sys2Proof.Byte) : Sys2Proof.Laws.EncodedLength.Statement (Sys2Proof.Instr.or a b) :=
  (by decide : 3 = 1 + Sys2Proof.operandCount 0xAA)
theorem Sys2Proof.Laws.EncodedLength.xor (a b : Sys2Proof.Byte) : Sys2Proof.Laws.EncodedLength.Statement (Sys2Proof.Instr.xor a b) :=
  (by decide : 3 = 1 + Sys2Proof.operandCount 0xAB)
theorem Sys2Proof.Laws.EncodedLength.shl (a b : Sys2Proof.Byte) : Sys2Proof.Laws.EncodedLength.Statement (Sys2Proof.Instr.shl a b) :=
  (by decide : 3 = 1 + Sys2Proof.operandCount 0xAC)
theorem Sys2Proof.Laws.EncodedLength.shr (a b : Sys2Proof.Byte) : Sys2Proof.Laws.EncodedLength.Statement (Sys2Proof.Instr.shr a b) :=
  (by decide : 3 = 1 + Sys2Proof.operandCount 0xAD)
end

