-- ==== Sys2Proof/Tests/Slice0.lean ====
section
/-! SUPPORT. Tests of one step each, expected values from spec/95_test_vectors.md (named "vectors" below) or from the
rule cited, and a witness for the hypotheses of every statement that has some. -/

namespace Sys2Proof.Tests

open Sys2Proof Sys2Proof.Machine

/-! ### Helpers -/

/-- The reset state without a tick in the coming cycle, `pc` and some registers and memory given. -/
def start (pc : Nat) (x0 x1 x2 : Byte) (sp : Byte) (mem : Memory) : State :=
  { State.reset with
    pc := pc
    regs := #v[x0, x1, x2, 0x00, 0x00, 0x01, 0x00, sp]
    mem := mem
    ticks := [false] }

/-- Three bytes at address 0, for bytes that are not zero. -/
def at0 (b0 b1 b2 : Byte) : Memory := ((Memory.put [] 0 b0).put 1 b1).put 2 b2

/-- The result is a next state that satisfies `p`. -/
def nextIs (r : Res State) (p : State → Bool) : Bool :=
  match r with
  | .next t => p t
  | .fault _ => false
  | .refused _ => false

/-- The result is this fault. -/
def faultIs (r : Res State) (f : Fault) : Bool :=
  match r with
  | .next _ => false
  | .fault g => g == f
  | .refused _ => false

/-- One cycle of `op R0, R1` at address 0. -/
def run2 (op x0 x1 : Byte) : Res State := step (start 0 x0 x1 0 0xF4 (at0 op 0x00 0x01))

/-- `R0` after one cycle of `op R0, R1`, with `pc` at 3 and `FL` unchanged. -/
def gives (op x0 x1 v : Byte) : Bool :=
  nextIs (run2 op x0 x1) fun t => t.reg 0 == v && t.pc == 3 && t.fl == 0x00

/-! ### WellFormed (spec/30_encoding.md R66) -/

theorem test_wf_first_operand : (Instr.add 0x08 0x00).wf = false := by decide
theorem test_wf_second_operand : (Instr.add 0x00 0x09).wf = false := by decide
theorem test_wf_ldi_register : (Instr.ldi 0x08 0x01).wf = false := by decide
theorem test_wf_one_operand : (Instr.jeq 0x09).wf = false := by decide
/-- Operand b of LDI is an immediate: no check. -/
theorem test_wf_ldi_immediate : (Instr.ldi 0x07 0xFF).wf = true := by decide
theorem test_wf_registers : (Instr.st 0x07 0x00).wf = true := by decide

/-! ### Decode: every row of spec/30_encoding.md R65, its opcode written as `AA B C DDDD` -/

theorem test_decode_none :
    decode 0b00000000 5 6 = .ok .nop ∧ decode 0b00000001 5 6 = .ok .hlt ∧
    decode 0b00010001 5 6 = .ok .ret ∧ decode 0b00010011 5 6 = .ok .iret := by decide

theorem test_decode_stack_io :
    decode 0b01000101 5 6 = .ok (.push 5) ∧ decode 0b01000110 5 6 = .ok (.pop 5) ∧
    decode 0b01000111 5 6 = .ok (.prn 5) ∧ decode 0b01001000 5 6 = .ok (.pra 5) := by decide

theorem test_decode_sets_pc :
    decode 0b01010000 5 6 = .ok (.call 5) ∧ decode 0b01010010 5 6 = .ok (.int 5) ∧
    decode 0b01010100 5 6 = .ok (.jmp 5) ∧ decode 0b01010101 5 6 = .ok (.jeq 5) ∧
    decode 0b01010110 5 6 = .ok (.jne 5) ∧ decode 0b01010111 5 6 = .ok (.jgt 5) ∧
    decode 0b01011000 5 6 = .ok (.jlt 5) ∧ decode 0b01011001 5 6 = .ok (.jle 5) ∧
    decode 0b01011010 5 6 = .ok (.jge 5) := by decide

theorem test_decode_alu_one :
    decode 0b01100101 5 6 = .ok (.inc 5) ∧ decode 0b01100110 5 6 = .ok (.dec 5) ∧
    decode 0b01101001 5 6 = .ok (.not 5) := by decide

theorem test_decode_load_store :
    decode 0b10000010 5 6 = .ok (.ldi 5 6) ∧ decode 0b10000011 5 6 = .ok (.ld 5 6) ∧
    decode 0b10000100 5 6 = .ok (.st 5 6) := by decide

theorem test_decode_alu_two :
    decode 0b10100000 5 6 = .ok (.add 5 6) ∧ decode 0b10100001 5 6 = .ok (.sub 5 6) ∧
    decode 0b10100010 5 6 = .ok (.mul 5 6) ∧ decode 0b10100011 5 6 = .ok (.div 5 6) ∧
    decode 0b10100100 5 6 = .ok (.mod 5 6) ∧ decode 0b10100111 5 6 = .ok (.cmp 5 6) ∧
    decode 0b10101000 5 6 = .ok (.and 5 6) ∧ decode 0b10101010 5 6 = .ok (.or 5 6) ∧
    decode 0b10101011 5 6 = .ok (.xor 5 6) ∧ decode 0b10101100 5 6 = .ok (.shl 5 6) ∧
    decode 0b10101101 5 6 = .ok (.shr 5 6) := by decide

/-- The samples of vector S2 that look well formed and are illegal. -/
theorem test_decode_illegal :
    ∀ op ∈ ([0x02, 0x10, 0x12, 0x44, 0x49, 0x51, 0x53, 0x5B, 0x64, 0x67, 0x68, 0x81, 0x85, 0xA5, 0xA6, 0xA9,
      0xAE, 0xAF, 0xC0, 0xFF] : List Byte), decode op 0 1 = .error (.invalidInstruction op) := by decide

/-- The triples of vector S2 for one row of each shape. -/
theorem test_decode_fields :
    (operandCount 0x13, isAlu 0x13, setsPc 0x13) = (0, false, true) ∧
    (operandCount 0x52, isAlu 0x52, setsPc 0x52) = (1, false, true) ∧
    (operandCount 0x69, isAlu 0x69, setsPc 0x69) = (1, true, false) ∧
    (operandCount 0xA7, isAlu 0xA7, setsPc 0xA7) = (2, true, false) := by decide

/-- The bytes `82 00 08` as the opcode table numbers them: the first byte lowest. -/
theorem test_decodeTableWord :
    decodeTableWord 24 0x080082 = some (.ldi 0 8) ∧ decodeTableWord 8 0x82 = some (.ldi 0 0) ∧
    decodeTableWord 8 0x02 = none := by decide

/-- `withFetchWord` after reset: the very next step runs `LDI R0,8`. -/
theorem test_withFetchWord :
    nextIs (step (State.reset.withFetchWord 24 0x080082)) (fun t => t.reg 0 == 0x08 && t.pc == 3) = true := by decide

/-! ### ALU (vectors, part 2) -/

theorem test_add : gives 0xA0 0xC8 0x64 0x2C = true := by decide
/-- `SP` is an ordinary operand: `ADD R0,R7`. -/
theorem test_add_sp :
    nextIs (step (start 0 0x08 0 0 0xF4 (at0 0xA0 0x00 0x07))) (fun t => t.reg 0 == 0xFC && t.reg 7 == 0xF4) = true := by
  decide
theorem test_sub : gives 0xA1 0x03 0x05 0xFE = true := by decide
theorem test_mul : gives 0xA2 0xFF 0xFF 0x01 = true := by decide
theorem test_div : gives 0xA3 0xFF 0x10 0x0F = true := by decide
theorem test_div_zero : faultIs (run2 0xA3 0x05 0x00) (.divisionByZero []) = true := by decide
theorem test_mod : gives 0xA4 0x05 0x07 0x05 = true := by decide
theorem test_mod_zero : faultIs (run2 0xA4 0x05 0x00) (.divisionByZero []) = true := by decide
theorem test_and : gives 0xA8 0xCC 0xAA 0x88 = true := by decide
theorem test_or : gives 0xAA 0xCC 0xAA 0xEE = true := by decide
theorem test_xor : gives 0xAB 0xCC 0xAA 0x66 = true := by decide
theorem test_shl : gives 0xAC 0x81 0x01 0x02 = true := by decide
theorem test_shl_by_255 : gives 0xAC 0x01 0xFF 0x00 = true := by decide
theorem test_shr : gives 0xAD 0x81 0x01 0x40 = true := by decide
theorem test_shr_by_8 : gives 0xAD 0xFF 0x08 0x00 = true := by decide
/-- Unsigned: FF is greater than 01. -/
theorem test_cmp : nextIs (run2 0xA7 0xFF 0x01) (fun t => t.fl == 0x02 && t.reg 0 == 0xFF && t.pc == 3) = true := by decide
/-- All 8 bits of `FL` are written. -/
theorem test_cmp_clears :
    nextIs (step { start 0 0x05 0x05 0 0xF4 (at0 0xA7 0x00 0x01) with fl := 0x87 }) (fun t => t.fl == 0x01) = true := by
  decide
/-- The byte after `INC R0` is not an operand. -/
theorem test_inc :
    nextIs (step (start 0 0xFF 0 0 0xF4 (at0 0x65 0x00 0xFF))) (fun t => t.reg 0 == 0x00 && t.pc == 2) = true := by decide
theorem test_dec : nextIs (step (start 0 0 0 0 0xF4 (at0 0x66 0x00 0x00))) (fun t => t.reg 0 == 0xFF) = true := by decide
theorem test_not : nextIs (step (start 0 0x0F 0 0 0xF4 (at0 0x69 0x00 0x00))) (fun t => t.reg 0 == 0xF0) = true := by decide

/-! ### Load, store, output (vectors, part 2) -/

theorem test_ldi :
    nextIs (step (start 0 0 0 0 0xF4 (at0 0x82 0x03 0xFF))) (fun t => t.reg 3 == 0xFF && t.pc == 3) = true := by decide
/-- `LDI` to the last register that exists; R8 faults. -/
theorem test_ldi_bounds :
    nextIs (step (start 0 0 0 0 0xF4 (at0 0x82 0x07 0x80))) (fun t => t.reg 7 == 0x80) = true ∧
    faultIs (step (start 0 0 0 0 0xF4 (at0 0x82 0x08 0x01))) (.invalidRegister 0x08 []) = true := by decide
/-- `LD R2,R2` with `x[2] = 0` reads its own opcode byte. -/
theorem test_ld :
    nextIs (step (start 0 0 0 0 0xF4 (at0 0x83 0x02 0x02))) (fun t => t.reg 2 == 0x83) = true := by decide
theorem test_st :
    nextIs (step (start 0 0x15 0 0x80 0xF4 (at0 0x84 0x02 0x00)))
      (fun t => t.mem.get 0x80 == 0x15 && t.pc == 3) = true := by decide
/-- A store over its own operand byte does not change this execution. -/
theorem test_st_own_operand :
    nextIs (step (start 0 0x01 0x7F 0 0xF4 (at0 0x84 0x00 0x01)))
      (fun t => t.mem.get 0x01 == 0x7F && t.opa == 0x00) = true := by decide
theorem test_prn :
    nextIs (step (start 0 0xFF 0 0 0xF4 (at0 0x47 0x00 0x00))) (fun t => t.out == [.dec 255] && t.pc == 2) = true := by
  decide
theorem test_prn_bad : faultIs (step (start 0 0 0 0 0xF4 (at0 0x47 0xFF 0x00))) (.invalidRegister 0xFF []) = true := by
  decide
theorem test_pra :
    nextIs (step (start 0 0x2A 0 0 0xF4 (at0 0x48 0x00 0x00))) (fun t => t.out == [.chr 42]) = true := by decide
theorem test_pra_bad :
    faultIs (step (start 0 0 0 0 0xF4 (at0 0x48 0x08 0x00))) (.registerIndexOutOfRange 0x08 []) = true := by decide

/-! ### Stack and subroutines (vectors, part 2) -/

/-- The stack wraps below address 0 and overwrites vector 7. -/
theorem test_push_wraps :
    nextIs (step (start 0 0x2A 0 0 0x00 (at0 0x45 0x00 0x00)))
      (fun t => t.reg 7 == 0xFF && t.mem.get 0xFF == 0x2A && t.pc == 2) = true := by decide
theorem test_push_sp :
    nextIs (step (start 0 0 0 0 0xF4 (at0 0x45 0x07 0x00)))
      (fun t => t.reg 7 == 0xF3 && t.mem.get 0xF3 == 0xF4) = true := by decide
theorem test_pop_wraps :
    nextIs (step (start 0 0 0 0 0xFF ((at0 0x46 0x01 0x00).put 0xFF 0x77)))
      (fun t => t.reg 1 == 0x77 && t.reg 7 == 0x00) = true := by decide
theorem test_pop_sp :
    nextIs (step (start 0 0 0 0 0xF4 ((at0 0x46 0x07 0x00).put 0xF4 0x10))) (fun t => t.reg 7 == 0x10) = true := by decide
/-- `CALL R0` in the last place it can be fetched. -/
theorem test_call :
    nextIs (step (start 0xFD 0x20 0 0 0xF4 (Memory.put [] 0xFD 0x50)))
      (fun t => t.mem.get 0xF3 == 0xFF && t.pc == 0x20 && t.reg 7 == 0xF3) = true := by decide
/-- `CALL R7` jumps to the decremented `SP`. -/
theorem test_call_sp :
    nextIs (step (start 0 0 0 0 0xF4 (at0 0x50 0x07 0x00)))
      (fun t => t.mem.get 0xF3 == 0x02 && t.pc == 0xF3) = true := by decide
theorem test_ret :
    nextIs (step (start 0 0 0 0 0xF3 ((at0 0x11 0x00 0x00).put 0xF3 0xFE)))
      (fun t => t.pc == 0xFE && t.reg 7 == 0xF4) = true := by decide

/-! ### Jumps (vectors, part 2): `Jxx R2` at 10 with `x[2] = 30`, for one `FL` -/

/-- `pc` after a jump with opcode `op`. -/
def jumps (op fl : Byte) (pc : Nat) : Bool :=
  nextIs (step { start 0x10 0 0 0x30 0xF4 ((Memory.put [] 0x10 op).put 0x11 0x02) with fl := fl })
    fun t => t.pc == pc && t.fl == fl

theorem test_jmp : jumps 0x54 0x00 0x30 = true := by decide
theorem test_jeq : jumps 0x55 0x01 0x30 = true ∧ jumps 0x55 0x02 0x12 = true := by decide
theorem test_jne : jumps 0x56 0x80 0x30 = true ∧ jumps 0x56 0x07 0x12 = true := by decide
theorem test_jgt : jumps 0x57 0x02 0x30 = true ∧ jumps 0x57 0x04 0x12 = true := by decide
theorem test_jlt : jumps 0x58 0x04 0x30 = true ∧ jumps 0x58 0x02 0x12 = true := by decide
theorem test_jle : jumps 0x59 0x01 0x30 = true ∧ jumps 0x59 0x02 0x12 = true := by decide
theorem test_jge : jumps 0x5A 0x02 0x30 = true ∧ jumps 0x5A 0x04 0x12 = true := by decide
/-- A jump that is not taken checks its operand all the same. -/
theorem test_jump_bad_register :
    faultIs (step { start 0 0 0 0 0xF4 (at0 0x55 0x09 0x00) with fl := 0x02 }) (.registerIndexOutOfRange 0x09 []) = true := by
  decide

/-! ### System instructions and interrupts (vectors, parts 1 and 2) -/

theorem test_nop : nextIs (step (start 0x05 0 0 0 0xF4 [])) (fun t => t.pc == 0x06) = true := by decide
/-- `HLT` at FD halts; at FE the fetch faults first. -/
theorem test_hlt :
    nextIs (step (start 0xFD 0 0 0 0xF4 [(0xFD, 0x01)])) (fun t => t.status == .halted && t.pc == 0xFD) = true ∧
    faultIs (step (start 0xFE 0 0 0 0xF4 [(0xFE, 0x01)])) (.outOfRange 0x100 []) = true := by decide
theorem test_int :
    nextIs (step (start 0x0C 0 0 0x00 0xF4 [(0x0C, 0x52), (0x0D, 0x02)])) (fun t => t.reg 6 == 0x01 && t.pc == 0x0C) = true := by
  decide
theorem test_int_above_7 :
    faultIs (step (start 0 0 0 0x08 0xF4 (at0 0x52 0x02 0x00))) (.invalidInterruptNumber 0x08 []) = true := by decide
/-- Vector "IRET outside a handler". -/
theorem test_iret :
    nextIs (step (start 0 0 0 0 0xF4 ([(0x00, 0x13), (0xF4, 1), (0xF5, 2), (0xF6, 3), (0xF7, 4), (0xF8, 5), (0xF9, 6)] ++
        [(0xFA, 7), (0xFB, 0x87), (0xFC, 0x40)])))
      (fun t => t.regs == #v[7, 6, 5, 4, 3, 2, 1, 0xFD] && t.fl == 0x87 && t.pc == 0x40 && t.ie) = true := by decide
/-- Vector S7: the frame, and the handler's first instruction in the same cycle. -/
theorem test_entry :
    nextIs (step { start 0x0C 0xF8 0x20 0 0xF4 [(0x20, 0x82), (0x22, 0x08), (0xF8, 0x20)] with
        regs := #v[0xF8, 0x20, 0x00, 0x00, 0x00, 0x01, 0x01, 0xF4] })
      (fun t => t.mem == [(0x20, 0x82), (0x22, 0x08), (0xEC, 0x01), (0xF0, 0x20), (0xF1, 0xF8), (0xF3, 0x0C), (0xF8, 0x20)] &&
        t.regs == #v[0x08, 0x20, 0x00, 0x00, 0x00, 0x01, 0x00, 0xEB] && t.pc == 0x23 && !t.ie) = true := by decide
/-- Vector S1, tick in cycle 2: the program starts again with the frame of `pc = 3`. -/
theorem test_tick :
    nextIs (step { start 0x03 0x08 0 0 0xF4 [(0, 0x82), (2, 0x08), (3, 0x47), (6, 0x01)] with ticks := [true] })
      (fun t => t.mem.get 0xF3 == 0x03 && t.mem.get 0xF1 == 0x08 && t.mem.get 0xEC == 0x01 && t.reg 7 == 0xEB &&
        !t.ie && t.pc == 3) = true := by decide
/-- Interrupt 1 before interrupt 2, which waits. -/
theorem test_priority :
    nextIs (interruptCheck false { start 0 0 0 0 0xF4 [(0xF9, 0x40)] with
        regs := #v[0x00, 0x00, 0x00, 0x00, 0x00, 0xFF, 0x06, 0xF4] })
      (fun t => t.pc == 0x40 && t.reg 6 == 0x04 && t.mem.get 0xEB == 0x04) = true := by decide
/-- A masked tick stays pending; with `IE` false it is not sampled. -/
theorem test_tick_masked :
    nextIs (interruptCheck true { start 0 0 0 0 0xF4 [] with regs := #v[0, 0, 0, 0, 0, 0x00, 0x00, 0xF4] })
      (fun t => t.reg 6 == 0x01 && t.ie) = true ∧
    nextIs (interruptCheck true { start 0 0 0 0 0xF4 [] with ie := false }) (fun t => t.reg 6 == 0x00) = true := by decide
/-- Entry with `pc = 256` faults. -/
theorem test_entry_pc_256 :
    faultIs (interruptCheck true (start 256 0 0 0 0xF4 [])) (.outOfRange 256 []) = true := by decide
/-- Vector S8: the unknown opcode `FF`. -/
theorem test_unknown_opcode :
    faultIs (step (start 0x03 0 0 0 0xF4 [(0x03, 0xFF), (0x04, 0x47)])) (.invalidInstruction 0xFF []) = true := by decide
/-- The operand check comes before the divisor check. -/
theorem test_operand_before_divisor :
    faultIs (step (start 0 0 0 0 0xF4 (at0 0xA3 0x08 0x01))) (.registerIndexOutOfRange 0x08 []) = true := by decide
/-- The trace of vector S1 in its first cycle. -/
theorem test_trace :
    (traceSample (start 0 0 0 0 0xF4 (at0 0x82 0x00 0x08))).map (fun t => (t.pc, t.bytes)) = some (0, 0x82, 0x00, 0x08) := by
  decide

/-! ### Witnesses: for every statement with hypotheses, states and operands that meet all of them together -/

theorem next_of {r : Res State} {p : State → Bool} (h : nextIs r p = true) : ∃ t, r = .next t ∧ p t = true := by
  cases r with
  | next t => exact ⟨t, rfl, h⟩
  | fault f => cases h
  | refused f => cases h

theorem fault_of {r : Res State} {f : Fault} (h : faultIs r f = true) : r = .fault f := by
  cases r with
  | next t => cases h
  | fault g => exact congrArg _ (beq_iff_eq.1 h)
  | refused g => cases h

/-- The check of a state's coming cycle, and what the state after it satisfies. -/
theorem checked_of {s : State} {p : State → Bool} (hs : s.status = .running)
    (h : nextIs (interruptCheck s.tickNow s.nextTick) p = true) : ∃ s1, s.checkedTo s1 ∧ p s1 = true := by
  obtain ⟨t, ht, hp⟩ := next_of h
  exact ⟨t, ⟨hs, ht⟩, hp⟩

/-- A byte at `pc`, another at the end of memory, no tick. -/
def small (pc : Nat) (op : Byte) : State := start pc 0x05 0x00 0x07 0xF4 (Memory.put [] pc op)

theorem witness_LoadImageFillsMemoryFromZero :
    (∃ image : List Byte, image.length ≤ 256 ∧ 255 < image.length) ∧ ∃ image : List Byte, 256 < image.length := by
  refine ⟨⟨List.replicate 256 0x01, ?_, ?_⟩, ⟨List.replicate 257 0x01, ?_⟩⟩ <;> rw [List.length_replicate] <;> omega

theorem witness_MemoryReadsTheLastWrite : (255 < 256 ∧ 256 ≤ 256) ∧ 255 ≠ 254 := by decide

theorem witness_CanonicalMemoryIsDeterminedByItsReads :
    Memory.wf [(0, 0x01), (255, 0xFF)] ∧ ∀ a, Memory.get [(0, 0x01), (255, 0xFF)] a = Memory.get [(0, 0x01), (255, 0xFF)] a :=
  ⟨by decide, fun _ => rfl⟩

theorem witness_EncodedInstructionIsFetchedAndDecoded :
    let s := start 253 0 0 0 0xF4 [(253, 0x82), (254, 0x07), (255, 0x15)]
    s.pc ≤ 253 ∧ ∀ k (h : k < (encode (.ldi 7 0x15)).length), s.mem.get (s.pc + k) = (encode (.ldi 7 0x15))[k] := by
  decide

theorem witness_DecoderReproducesTheOpcodeFields :
    decode 0xAD 0x07 0x08 = .ok (.shr 0x07 0x08) ∧ (0xAD : Byte) ∈ legalOpcodes ∧ (0xAE : Byte) ∉ legalOpcodes := by
  decide

/-- What `StepRunsTheDecodedInstruction` asks of the state after the check, for an instruction. -/
def readyFor (i : Instr) (s1 : State) : Bool :=
  decide (s1.pc ≤ 253) && decide (decode (s1.mem.get s1.pc) (s1.mem.get (s1.pc + 1)) (s1.mem.get (s1.pc + 2)) = .ok i)

theorem readyFor_iff (i : Instr) (s1 : State) : readyFor i s1 = true ↔ s1.pc ≤ 253 ∧
    decode (s1.mem.get s1.pc) (s1.mem.get (s1.pc + 1)) (s1.mem.get (s1.pc + 2)) = .ok i := by
  simp [readyFor]

/-- A next state: HLT in the last place it can be fetched. -/
theorem witness_StepRunsTheDecodedInstruction_next :
    ∃ (s s1 t : State) (i : Instr), s.checkedTo s1 ∧ s1.pc ≤ 253 ∧
      decode (s1.mem.get s1.pc) (s1.mem.get (s1.pc + 1)) (s1.mem.get (s1.pc + 2)) = .ok i ∧
      exec i s1.latched = .next t := by
  obtain ⟨s1, h, hp⟩ := checked_of (s := small 253 0x01) (p := readyFor .hlt) rfl (by decide)
  exact ⟨_, s1, _, .hlt, h, ((readyFor_iff _ _).1 hp).1, ((readyFor_iff _ _).1 hp).2, rfl⟩

/-- A fault: `DIV R0,R0` with zero. -/
theorem witness_StepRunsTheDecodedInstruction_fault :
    ∃ (s s1 : State) (i : Instr) (f : Fault), s.checkedTo s1 ∧ s1.pc ≤ 253 ∧
      decode (s1.mem.get s1.pc) (s1.mem.get (s1.pc + 1)) (s1.mem.get (s1.pc + 2)) = .ok i ∧
      exec i s1.latched = .fault f := by
  obtain ⟨s1, h, hp⟩ := checked_of (s := start 253 0 0 0 0xF4 [(253, 0xA3)])
    (p := fun t => readyFor (.div 0 0) t && faultIs (exec (.div 0 0) t.latched) (.divisionByZero [])) rfl (by decide)
  rw [Bool.and_eq_true, readyFor_iff] at hp
  exact ⟨_, s1, _, _, h, hp.1.1, hp.1.2, fault_of hp.2⟩

/-- A run that an interrupt diverts in this cycle meets the same hypotheses, at the handler. -/
theorem witness_StepRunsTheDecodedInstruction_entry :
    ∃ s s1 : State, s.checkedTo s1 ∧ s.pc = 0x0C ∧ readyFor .iret s1 = true := by
  obtain ⟨s1, h, hp⟩ := checked_of (s := { start 0x0C 0 0 0 0xF4 [(0x20, 0x13), (0xF8, 0x20)] with ticks := [true] })
    (p := readyFor .iret) rfl (by decide)
  exact ⟨_, s1, h, rfl, hp⟩

theorem witness_FetchAbove253Faults : ∃ s s1 : State, s.checkedTo s1 ∧ 254 ≤ s1.pc := by
  obtain ⟨s1, h, hp⟩ := checked_of (s := small 254 0x01) (p := fun t => decide (254 ≤ t.pc)) rfl (by decide)
  exact ⟨_, s1, h, of_decide_eq_true hp⟩

theorem witness_UnknownOpcodeFaults :
    ∃ s s1 : State, s.checkedTo s1 ∧ s1.pc ≤ 253 ∧ s1.mem.get s1.pc ∉ legalOpcodes := by
  obtain ⟨s1, h, hp⟩ := checked_of (s := small 253 0xFF)
    (p := fun t => decide (t.pc ≤ 253 ∧ t.mem.get t.pc ∉ legalOpcodes)) rfl (by decide)
  exact ⟨_, s1, h, of_decide_eq_true hp⟩

theorem witness_CycleEndsInOneOfThreeOutcomes :
    (∃ s : State, s.status = .running) ∧ (∃ s t : State, step s = .next t ∧ t.status = .running) ∧
    (∃ s t : State, step s = .next t ∧ t.status = .halted) ∧ ∃ s : State, s.status ≠ .running := by
  obtain ⟨t, h, hp⟩ := next_of (r := step (small 0 0x00)) (p := fun t => decide (t.status = .running)) (by decide)
  obtain ⟨u, g, gp⟩ := next_of (r := step (small 0 0x01)) (p := fun t => decide (t.status = .halted)) (by decide)
  exact ⟨⟨State.reset, rfl⟩, ⟨_, t, h, of_decide_eq_true hp⟩, ⟨_, u, g, of_decide_eq_true gp⟩,
    ⟨State.reset.halt, by decide⟩⟩

theorem witness_OutputIsAppendOnly : ∃ (s : State) (f : Fault), step s = .fault f ∧ s.out ≠ [] :=
  ⟨{ small 254 0x00 with out := [.dec 8] }, _,
    fault_of (by decide : faultIs _ (.outOfRange 256 [.dec 8]) = true), by decide⟩

theorem witness_TraceShowsTheFetchedInstruction : ∃ s s1 : State, s.checkedTo s1 ∧ s1.pc ≤ 253 := by
  obtain ⟨s1, h, hp⟩ := checked_of (s := small 253 0x01) (p := fun t => decide (t.pc ≤ 253)) rfl (by decide)
  exact ⟨_, s1, h, of_decide_eq_true hp⟩

theorem witness_StatusCodesAreDistinct : ∃ a b : Status, a.code = b.code := ⟨.halted, .halted, rfl⟩

theorem witness_DivModGiveQuotientAndRemainder : (start 0 0xFF 0x01 0 0xF4 []).reg 1 ≠ 0 := by decide

theorem witness_DivModByZeroFault : (start 0 0x05 0x00 0 0xF4 []).reg 1 = 0 := by decide

theorem witness_CompareSetsExactlyOneFlag :
    let s := start 0 0x05 0x06 0 0xF4 []
    (s.reg 0).toNat = (s.reg 0).toNat ∧ (s.reg 0).toNat < (s.reg 1).toNat ∧ (s.reg 1).toNat < (s.reg 7).toNat := by decide

/-- The stack wraps, and `R7` is pushed. -/
theorem witness_PushThenPopRoundTrips : ∃ s t : State, exec (.push (regByte 7)) s = .next t ∧ t.reg 7 = 0xFF := by
  obtain ⟨t, h, hp⟩ := next_of (r := exec (.push (regByte 7)) (start 0 0 0 0 0x00 []))
    (p := fun t => decide (t.reg 7 = 0xFF)) (by decide)
  exact ⟨_, t, h, of_decide_eq_true hp⟩

theorem witness_CallPushesTheReturnAddress : (start 253 0 0 0 0xF4 []).pc ≤ 253 := by decide

/-- The subroutine's state when it returns need not be the one it began in. -/
theorem witness_CallThenReturnResumes :
    ∃ s t t' : State, s.pc ≤ 253 ∧ exec (.call (regByte 1)) s = .next t ∧ t'.reg 7 = t.reg 7 ∧
      t'.mem.get (t.reg 7).toNat = t.mem.get (t.reg 7).toNat ∧ t'.pc ≠ t.pc := by
  obtain ⟨t, h, hp⟩ := next_of (r := exec (.call (regByte 1)) (start 253 0 0x14 0 0xF4 []))
    (p := fun t => decide ((start 0x21 0 0 0 0xF3 [(0xF3, 0xFF)]).reg 7 = t.reg 7 ∧
      Memory.get [(0xF3, 0xFF)] (t.reg 7).toNat = t.mem.get (t.reg 7).toNat ∧ 0x21 ≠ t.pc)) (by decide)
  exact ⟨_, t, start 0x21 0 0 0 0xF3 [(0xF3, 0xFF)], by decide, h, of_decide_eq_true hp⟩

theorem witness_LoadImmediateWritesTheByte : (0x07 : Byte).toNat = (7 : RegIdx).val ∧ 7 < (0x08 : Byte).toNat := by decide

/-- `ST R0,R1` to 253, to 254 and to 255, the three bytes of the last fetch there can be. -/
theorem witness_StoreIsSeenByTheNextFetch_any :
    ∀ n : Fin 3, ∃ s t : State, exec (.st (regByte 0) (regByte 1)) s = .next t ∧ (s.reg 0).toNat = 253 + n.val := by
  have h : ∀ n : Fin 3, nextIs (exec (.st (regByte 0) (regByte 1)) (start 0 (BitVec.ofNat 8 (253 + n.val)) 1 0 0xF4 []))
      (fun _ => decide (((start 0 (BitVec.ofNat 8 (253 + n.val)) 1 0 0xF4 []).reg 0).toNat = 253 + n.val)) = true := by
    decide
  intro n
  obtain ⟨t, h, hp⟩ := next_of (h n)
  exact ⟨_, t, h, of_decide_eq_true hp⟩

/-- `ST R0,R1` at 250 with `R0` holding 253, 254 or 255. -/
def storing (n : Fin 3) : State := start 250 (BitVec.ofNat 8 (253 + n.val)) 0x01 0 0xF4 [(250, 0x84), (252, 0x01)]

/-- `ST R0,R1` at 250, the last place from which the next cycle can fetch, over each byte of that fetch. -/
theorem witness_StoreIsSeenByTheNextFetch_cycle :
    ∀ n : Fin 3, ∃ s s1 t : State, s.checkedTo s1 ∧ (s1.pc ≤ 253 ∧ s1.mem.get s1.pc = 0x84 ∧
      s1.mem.get (s1.pc + 1) = regByte 0 ∧ s1.mem.get (s1.pc + 2) = regByte 1) ∧
      step s = .next t ∧ t.pc ≤ 253 ∧ (s1.reg 0).toNat = t.pc + n.val := by
  have h1 : ∀ n : Fin 3, nextIs (interruptCheck false (storing n).nextTick) (fun s1 => decide ((s1.pc ≤ 253 ∧
      s1.mem.get s1.pc = 0x84 ∧ s1.mem.get (s1.pc + 1) = regByte 0 ∧ s1.mem.get (s1.pc + 2) = regByte 1) ∧
      (s1.reg 0).toNat = 253 + n.val)) = true := by decide
  have h2 : ∀ n : Fin 3, nextIs (step (storing n)) (fun t => decide (t.pc = 253)) = true := by decide
  intro n
  obtain ⟨s1, h, hp⟩ := checked_of rfl (h1 n)
  obtain ⟨t, g, gp⟩ := next_of (h2 n)
  have hp := of_decide_eq_true hp
  have gp := of_decide_eq_true gp
  exact ⟨_, s1, t, h, hp.1, g, Nat.le_of_eq gp, by rw [gp]; exact hp.2⟩

theorem witness_PrintDecimalEmitsTheRegister : (0x07 : Byte).toNat = (7 : RegIdx).val ∧ 7 < (0x08 : Byte).toNat := by decide

theorem witness_CompareThenJumpDecides : ∃ s t : State, exec (.cmp (regByte 0) (regByte 1)) s = .next t :=
  ⟨start 0 0xFF 0x01 0 0xF4 [], _, rfl⟩

theorem witness_NopOnlyAdvancesPc : ∃ s s1 : State, s.checkedTo s1 ∧ s1.pc ≤ 253 ∧ s1.mem.get s1.pc = 0x00 := by
  obtain ⟨s1, h, hp⟩ := checked_of (s := small 253 0x00) (p := fun t => decide (t.pc ≤ 253 ∧ t.mem.get t.pc = 0x00)) rfl
    (by decide)
  exact ⟨_, s1, h, of_decide_eq_true hp⟩

theorem witness_HaltEndsTheRun :
    (∃ s s1 : State, s.checkedTo s1 ∧ s1.pc ≤ 253 ∧ s1.mem.get s1.pc = 0x01) ∧
    (∃ s s1 : State, s.checkedTo s1 ∧ 254 ≤ s1.pc) ∧ ∃ s : State, s.status = .halted := by
  obtain ⟨s1, h, hp⟩ := checked_of (s := small 253 0x01) (p := fun t => decide (t.pc ≤ 253 ∧ t.mem.get t.pc = 0x01)) rfl
    (by decide)
  exact ⟨⟨_, s1, h, of_decide_eq_true hp⟩, witness_FetchAbove253Faults, ⟨State.reset.halt, rfl⟩⟩

theorem witness_IntMakesAnInterruptPending : ((start 0 0x07 0 0 0xF4 []).reg 0).toNat ≤ 7 := by decide

theorem witness_IntAbove7Faults : 7 < ((start 0 0x08 0 0 0xF4 []).reg 0).toNat := by decide

/-- The reset state with other `IM` and `IS`. -/
def irqs (im is : Byte) : State := { State.reset with regs := #v[0, 0, 0, 0, 0, im, is, 0xF4] }

/-- `IE` false; `IE` true with interrupt 7 alone ready; `IE` true with none ready although one is pending. -/
theorem witness_InterruptCheckTakesTheLowestReady :
    State.reset.status = .running ∧ { State.reset with ie := false }.ie = false ∧
    (irqs 0xFF 0x80).ie = true ∧ (irqs 0xFF 0x80).irqReady 7 = true ∧
    (∀ j : Fin 8, j < 7 → (irqs 0xFF 0x80).irqReady j = false) ∧
    (irqs 0x04 0x03).ie = true ∧ ∀ j : Fin 8, (irqs 0x04 0x03).irqReady j = false := by decide

theorem witness_InterruptEntryBuildsTheFrame : (start 255 0 0 0 0xF4 []).pc ≤ 255 ∧ 255 < (start 256 0 0 0 0xF4 []).pc := by
  decide

/-- A handler that changed a register and `pc` and left `SP` and the frame. -/
theorem witness_EntryThenIretRestores :
    ∃ s t t' : State, interruptEntry 7 s = .next t ∧ t'.reg 7 = t.reg 7 ∧
      (∀ n, n < 9 → t'.mem.get (t.reg 7 + BitVec.ofNat 8 n).toNat = t.mem.get (t.reg 7 + BitVec.ofNat 8 n).toNat) ∧
      t'.reg 0 ≠ t.reg 0 := by
  obtain ⟨t, h, hp⟩ := next_of (r := interruptEntry 7 (start 255 0xF8 0x20 0 0xF4 []))
    (p := fun t => decide ((start 0x35 0x08 0 0 0xEB []).reg 7 = t.reg 7 ∧
      (∀ n : Fin 9, Memory.get [(0xEC, 0x01), (0xF0, 0x20), (0xF1, 0xF8), (0xF3, 0xFF)] (t.reg 7 + BitVec.ofNat 8 n.val).toNat =
        t.mem.get (t.reg 7 + BitVec.ofNat 8 n.val).toNat) ∧ (start 0x35 0x08 0 0 0xEB []).reg 0 ≠ t.reg 0)) (by decide)
  have hp' := of_decide_eq_true hp
  exact ⟨_, t, start 0x35 0x08 0 0 0xEB [(0xEC, 0x01), (0xF0, 0x20), (0xF1, 0xF8), (0xF3, 0xFF)], h, hp'.1, (fun n hn => hp'.2.1 ⟨n, hn⟩), hp'.2.2⟩

theorem witness_OnlyIretEnablesInterrupts :
    (∃ s t : State, s.ie = false ∧ step s = .next t ∧ t.ir = 0x13) ∧
    ∃ s t : State, s.ie = false ∧ step s = .next t ∧ t.ir ≠ 0x13 := by
  obtain ⟨t, h, hp⟩ := next_of (r := step { small 0 0x13 with ie := false }) (p := fun t => decide (t.ir = 0x13)) (by decide)
  obtain ⟨u, g, gp⟩ := next_of (r := step { small 0 0x00 with ie := false }) (p := fun t => decide (t.ir ≠ 0x13)) (by decide)
  exact ⟨⟨_, t, rfl, h, of_decide_eq_true hp⟩, ⟨_, u, rfl, g, of_decide_eq_true gp⟩⟩

theorem witness_TickIsIgnoredWhileDisabled : { State.reset with ie := false }.ie = false := rfl

/-- Operand a bad, and operand b alone bad. -/
theorem witness_BadRegisterOperandFaults :
    (Instr.add 0x08 0x09).regOperands.find? (fun x => decide (7 < x.toNat)) = some 0x08 ∧
    (Instr.st 0x07 0xFF).regOperands.find? (fun x => decide (7 < x.toNat)) = some 0xFF ∧
    (Instr.prn 0x08).regOperands.find? (fun x => decide (7 < x.toNat)) = some 0x08 := by decide

/-- An instruction that neither exception concerns, and one of each that one does. -/
theorem witness_GoodOperandsComplete :
    let s := start 0 0x05 0x07 0 0xF4 []
    ((Instr.iret).wf = true ∧ (Instr.mod (regByte 0) (regByte 1)).wf = true ∧ (Instr.int (regByte 1)).wf = true) ∧
    (∀ a (j : RegIdx), Instr.iret = .div a (regByte j) ∨ Instr.iret = .mod a (regByte j) → s.reg j ≠ 0) ∧
    (∀ a (j : RegIdx), Instr.mod (regByte 0) (regByte 1) = .div a (regByte j) ∨
      Instr.mod (regByte 0) (regByte 1) = .mod a (regByte j) → s.reg j ≠ 0) ∧
    (∀ j : RegIdx, Instr.int (regByte 1) = .int (regByte j) → (s.reg j).toNat ≤ 7) := by
  have h1 : ∀ j : RegIdx, regByte 1 = regByte j → j = 1 := by decide
  refine ⟨by decide, fun a j h => ?_, fun a j h => ?_, fun j h => ?_⟩
  · rcases h with h | h <;> cases h
  · rcases h with h | h
    · cases h
    · injection h with _ h
      rw [h1 j h]; decide
  · injection h with h
    rw [h1 j h]; decide

/-- From the fetch, and from entry. -/
theorem witness_OutOfRangeComesOnlyFromFetchOrEntry :
    (∃ s : State, step s = .fault (.outOfRange 256 []) ∧ s.pc = 254) ∧
    ∃ s : State, step s = .fault (.outOfRange 256 []) ∧ s.ie = true ∧ 255 < s.pc :=
  ⟨⟨small 254 0x00, fault_of (by decide), rfl⟩,
    ⟨{ start 256 0 0 0 0xF4 [] with ticks := [true] }, fault_of (by decide), rfl, by decide⟩⟩

theorem witness_RegistersOutsideDestinationsKeep :
    ∃ s t : State, exec (.pop 0x01) s = .next t ∧ (0 : RegIdx) ∉ (Instr.pop 0x01).writtenRegs := by
  obtain ⟨t, h, _⟩ := next_of (r := exec (.pop 0x01) (start 0 0 0 0 0xFF [])) (p := fun _ => true) (by decide)
  exact ⟨_, t, h, by decide⟩

/-- A storing form at the last address, and a form that stores nothing. -/
theorem witness_MemoryOutsideTheStoredByteKeeps :
    (∃ s t : State, exec (.push 0x00) s = .next t ∧ (Instr.push 0x00).storedAddr s ≠ some 254 ∧
      (Instr.push 0x00).storedAddr s = some 255) ∧
    ∃ s t : State, exec .ret s = .next t ∧ (Instr.ret).storedAddr s ≠ some 0 := by
  obtain ⟨t, h, _⟩ := next_of (r := exec (.push 0x00) (start 0 0 0 0 0x00 [])) (p := fun _ => true) (by decide)
  obtain ⟨u, g, _⟩ := next_of (r := exec .ret (start 0 0 0 0 0x00 [])) (p := fun _ => true) (by decide)
  exact ⟨⟨_, t, h, by decide, by decide⟩, ⟨_, u, g, by decide⟩⟩

theorem witness_FlagsKeepExceptCmpAndIret :
    ∃ s t : State, exec (.add 0 1) s = .next t ∧ Instr.add 0 1 ≠ .iret ∧ (∀ a b, Instr.add 0 1 ≠ .cmp a b) ∧ s.fl = 0x87 := by
  obtain ⟨t, h, _⟩ := next_of (r := exec (.add 0 1) { start 0 0 0 0 0xF4 [] with fl := 0x87 }) (p := fun _ => true) (by decide)
  exact ⟨_, t, h, by decide, (fun _ _ e => by cases e), rfl⟩

/-- One instruction that meets every premise but the last alternative, and INT for that. -/
theorem witness_ControlStateKeeps :
    (∃ s t : State, exec (.add 0 1) s = .next t ∧ Instr.add 0 1 ≠ .iret ∧ Instr.add 0 1 ≠ .hlt ∧
      (∀ a, Instr.add 0 1 ≠ .prn a) ∧ (∀ a, Instr.add 0 1 ≠ .pra a) ∧ setsPc (Instr.add 0 1).opcode = false) ∧
    ∃ s t : State, exec (.int 0) s = .next t ∧ ∃ a, Instr.int 0 = .int a := by
  obtain ⟨t, h, _⟩ := next_of (r := exec (.add 0 1) (start 0 0 0 0 0xF4 [])) (p := fun _ => true) (by decide)
  obtain ⟨u, g, _⟩ := next_of (r := exec (.int 0) (start 0 0 0 0 0xF4 [])) (p := fun _ => true) (by decide)
  exact ⟨⟨_, t, h, by decide, by decide, (fun _ e => by cases e), (fun _ e => by cases e), by decide⟩, ⟨_, u, g, 0, rfl⟩⟩

/-- `LDI` in the last place it can be fetched leaves `pc` at 256. -/
theorem witness_StepKeepsInvariant : ∃ s t : State, s.Inv ∧ step s = .next t ∧ t.pc = 256 := by
  obtain ⟨t, h, hp⟩ := next_of (r := step (small 253 0x82)) (p := fun t => decide (t.pc = 256)) (by decide)
  exact ⟨_, t, ⟨by decide, by decide, .inl rfl⟩, h, of_decide_eq_true hp⟩

end Sys2Proof.Tests
end

section
/-! Memory access (spec/20_memory.md section 1). -/

namespace Sys2Proof.Machine

/-- The partner of `memRead_of_ge` for R42. -/
theorem memWrite_of_ge {addr : Nat} (h : 256 ≤ addr) (v : Byte) (s : State) :
    memWrite addr v s = .fault (.outOfRange addr s.out) := by
  simp [memWrite, Nat.not_lt.2 h]

/-- Settles O4: in range the written state is `s.setMem (s.mem.put addr v)`, whose cells `Memory.get_put_self` and
`Memory.get_put_ne` give. -/
theorem memoryReadsTheLastWrite : Obligations.MemoryReadsTheLastWrite := by
  intro addr v s
  refine ⟨fun hlt => ⟨memRead_of_lt hlt s, s.setMem (s.mem.put addr v), memWrite_of_lt hlt v s, ?_, ?_, rfl⟩,
    fun hge => ⟨memRead_of_ge hge s, memWrite_of_ge hge v s⟩⟩
  · exact Memory.get_put_self s.mem addr v
  · intro a ha
    exact Memory.get_put_ne s.mem v ha.symm

end Sys2Proof.Machine
end

section
/-! The decoder and the opcode fields (spec/30_encoding.md sections 2 and 3). -/

namespace Sys2Proof

/-- All that `decode` can answer (R63, R64, R68): an instruction whose opcode is the whole byte, or, on the bytes
outside the table and only there, the rejection that names the byte. -/
theorem decode_cases (op a b : Byte) :
    (∃ i, decode op a b = .ok i ∧ op = i.opcode) ∨
      (decode op a b = .error (.invalidInstruction op) ∧ op ∉ legalOpcodes) := by
  unfold decode
  split
  case h_35 =>
    refine .inr ⟨rfl, ?_⟩
    simp_all [legalOpcodes]
  all_goals exact .inl ⟨_, rfl, rfl⟩

theorem opcode_eq_of_decode {op a b : Byte} {i : Instr} (h : decode op a b = .ok i) : op = i.opcode := by
  obtain ⟨j, hj, hop⟩ | ⟨herr, -⟩ := decode_cases op a b
  · cases hj.symm.trans h
    exact hop
  · cases herr.symm.trans h

theorem opcode_mem_legalOpcodes (i : Instr) : i.opcode ∈ legalOpcodes := by
  cases i <;> simp [Instr.opcode, legalOpcodes]

theorem exists_decode_of_mem {op : Byte} (h : op ∈ legalOpcodes) (a b : Byte) : ∃ i, decode op a b = .ok i := by
  obtain ⟨i, hi, -⟩ | ⟨-, hnot⟩ := decode_cases op a b
  · exact ⟨i, hi⟩
  · exact absurd h hnot

theorem decode_of_not_mem {op : Byte} (h : op ∉ legalOpcodes) (a b : Byte) :
    decode op a b = .error (.invalidInstruction op) := by
  obtain ⟨i, -, rfl⟩ | ⟨herr, -⟩ := decode_cases op a b
  · exact absurd (opcode_mem_legalOpcodes i) h
  · exact herr

/-! What the fields of a byte are, as numbers (R61). -/

theorem operandCount_eq_div (op : Byte) : operandCount op = op.toNat / 64 := by
  have hlt : op.toNat < 256 := op.isLt
  have hmod : operandCount op = op.toNat / 64 % 4 := by
    simp [operandCount, BitVec.extractLsb'_toNat, Nat.shiftRight_eq_div_pow]
  omega

theorem isAlu_iff (op : Byte) : isAlu op = true ↔ op.toNat / 32 % 2 = 1 := by
  simp [isAlu, BitVec.getLsbD, Nat.testBit_eq_decide_div_mod_eq]

theorem setsPc_iff (op : Byte) : setsPc op = true ↔ op.toNat / 16 % 2 = 1 := by
  simp [setsPc, BitVec.getLsbD, Nat.testBit_eq_decide_div_mod_eq]

/-! What the fields of each row of the table of R65 are. -/

@[simp] theorem operandCount_opcode (i : Instr) : operandCount i.opcode = i.operands.length := by
  cases i <;> simp [operandCount, Instr.opcode, Instr.operands]

@[simp] theorem isAlu_opcode (i : Instr) : isAlu i.opcode = i.isAluOperation := by
  cases i <;> simp [isAlu, Instr.opcode, Instr.isAluOperation]

@[simp] theorem setsPc_opcode (i : Instr) : setsPc i.opcode = i.leavesPcToHandler := by
  cases i <;> simp [setsPc, Instr.opcode, Instr.leavesPcToHandler]

end Sys2Proof

namespace Sys2Proof.Machine

/-- Settles O9: a decoded byte is the opcode of its instruction, so its fields are those of a row of R65; `decode_cases`
says which bytes decode. -/
theorem decoderReproducesTheOpcodeFields : Obligations.DecoderReproducesTheOpcodeFields := by
  refine ⟨fun op a b i h => ?_, fun op a b h => exists_decode_of_mem h a b, fun op a b h => decode_of_not_mem h a b⟩
  obtain rfl := opcode_eq_of_decode h
  exact ⟨rfl, operandCount_eq_div _, operandCount_opcode i, isAlu_opcode i, isAlu_iff _, setsPc_opcode i, setsPc_iff _⟩

end Sys2Proof.Machine
end

section
/-! The two-operand ALU operations (spec/41_alu.md sections 1 and 3). -/

namespace Sys2Proof.Machine

/-- R100 on operand bytes that name registers. -/
@[simp] theorem alu2_regByte (f : Byte → Byte → Byte) (i j : RegIdx) (s : State) :
    alu2 f (regByte i) (regByte j) s = .next (s.setReg i (f (s.reg i) (s.reg j))) := by
  simp [alu2]

theorem exec_and_regByte (i j : RegIdx) (s : State) :
    exec (.and (regByte i) (regByte j)) s = .next (s.setReg i (s.reg i &&& s.reg j)) :=
  alu2_regByte _ i j s

theorem exec_or_regByte (i j : RegIdx) (s : State) :
    exec (.or (regByte i) (regByte j)) s = .next (s.setReg i (s.reg i ||| s.reg j)) :=
  alu2_regByte _ i j s

theorem exec_xor_regByte (i j : RegIdx) (s : State) :
    exec (.xor (regByte i) (regByte j)) s = .next (s.setReg i (s.reg i ^^^ s.reg j)) :=
  alu2_regByte _ i j s

/-- Settles O21: the byte written is the bit vectors' own and, or, exclusive or of the two old ones. -/
theorem andOrXorActBitByBit : Obligations.AndOrXorActBitByBit := by
  intro i j s
  refine ⟨⟨rfl, _, exec_and_regByte i j s, ?_⟩, ⟨rfl, _, exec_or_regByte i j s, ?_⟩,
    ⟨rfl, _, exec_xor_regByte i j s, ?_⟩⟩
  · exact fun k _ => BitVec.getLsbD_and
  · exact fun k _ => BitVec.getLsbD_or
  · exact fun k _ => BitVec.getLsbD_xor

end Sys2Proof.Machine
end

section
/-! The stack and subroutines (spec/42_stack_call.md). -/

namespace Sys2Proof.Machine

/-- R57 as one equation: `SP` one more modulo 256, and nothing else changed. -/
theorem popped_eq (s : State) : popped s = s.setReg 7 (s.reg 7 + 1) :=
  congrArg (s.setReg 7) (poppedSp_eq s)

/-- R133: the byte popped is the one at the old `SP`, read before `SP` moves. -/
theorem exec_ret (s : State) :
    exec .ret s = .next ((s.setReg 7 (s.reg 7 + 1)).jump (s.mem.get (s.reg 7).toNat)) :=
  calc exec .ret s
    _ = andThen (pop s) fun r => .next (r.2.jump r.1) := rfl
    _ = .next ((popped s).jump (s.mem.get (s.reg 7).toNat)) := by rw [pop_eq, andThen_next]
    _ = .next ((s.setReg 7 (s.reg 7 + 1)).jump (s.mem.get (s.reg 7).toNat)) := by rw [popped_eq]

/-- Settles O27: a pop never faults, so `exec_ret` has no hypothesis, and the jump changes `pc` alone. -/
theorem returnPopsTheProgramCounter : Obligations.ReturnPopsTheProgramCounter :=
  fun s => ⟨rfl, exec_ret s⟩

end Sys2Proof.Machine
end

section
/-! Load, store and output (spec/43_load_store_io.md). -/

namespace Sys2Proof.Machine

/-- A byte with the number of a register is that register's operand byte (R71). -/
theorem eq_regByte_of_toNat_eq {a : Byte} {i : RegIdx} (h : a.toNat = i.val) : a = regByte i := by
  rw [regByte, ← h, BitVec.ofNat_toNat, BitVec.setWidth_eq]

theorem exec_ldi_regByte (i : RegIdx) (b : Byte) (s : State) :
    exec (.ldi (regByte i) b) s = .next (s.setReg i b) :=
  withValidatedReg_regByte i s _

theorem exec_ldi_bad {a : Byte} (h : 7 < a.toNat) (b : Byte) (s : State) :
    exec (.ldi a b) s = .fault (.invalidRegister a s.out) :=
  withValidatedReg_bad h s _

/-- Settles O29: an operand in range is some `regByte i`, and the operand check faults on every other. -/
theorem loadImmediateWritesTheByte : Obligations.LoadImmediateWritesTheByte := by
  intro a b s
  refine ⟨rfl, fun i hi => ?_, fun h => exec_ldi_bad h b s⟩
  obtain rfl := eq_regByte_of_toNat_eq hi
  exact exec_ldi_regByte i b s

/-- R142: the address is a byte, so the write is in range. -/
theorem exec_st_regByte (i j : RegIdx) (s : State) :
    exec (.st (regByte i) (regByte j)) s = .next (s.setMem (s.mem.put (s.reg i).toNat (s.reg j))) :=
  calc exec (.st (regByte i) (regByte j)) s
    _ = withReg (regByte i) s fun i' => withReg (regByte j) s fun j' =>
          memWrite (s.reg i').toNat (s.reg j') s := rfl
    _ = memWrite (s.reg i).toNat (s.reg j) s := by rw [withReg_regByte, withReg_regByte]
    _ = .next (s.setMem (s.mem.put (s.reg i).toNat (s.reg j))) := memWrite_of_lt (byte_lt_memSize _) _ s

/-- Settles O31: `exec_st_regByte` gives the next state, and `Memory.get_put_self` and `Memory.get_put_ne` its cells. -/
theorem storeWritesTheAddressedByte : Obligations.StoreWritesTheAddressedByte := by
  intro i j s
  refine ⟨rfl, _, exec_st_regByte i j s, ?_, fun a ha => ?_, rfl⟩
  · exact Memory.get_put_self s.mem (s.reg i).toNat (s.reg j)
  · exact Memory.get_put_ne s.mem (s.reg j) ha.symm

theorem exec_prn_regByte (i : RegIdx) (s : State) :
    exec (.prn (regByte i)) s = .next (s.emit (.dec (s.reg i))) :=
  withValidatedReg_regByte i s _

theorem exec_prn_bad {a : Byte} (h : 7 < a.toNat) (s : State) :
    exec (.prn a) s = .fault (.invalidRegister a s.out) :=
  withValidatedReg_bad h s _

/-- Settles O33: an operand in range is some `regByte i`, and the operand check faults before anything is emitted. -/
theorem printDecimalEmitsTheRegister : Obligations.PrintDecimalEmitsTheRegister := by
  intro a s
  refine ⟨rfl, fun i hi => ?_, fun h => exec_prn_bad h s⟩
  obtain rfl := eq_regByte_of_toNat_eq hi
  exact exec_prn_regByte i s

end Sys2Proof.Machine
end

section
/-! The jumps (spec/44_jumps.md). -/

namespace Sys2Proof.Machine

/-- R157 on an operand byte that names a register: the condition chooses what `pc` becomes, and only `pc` is written. -/
@[simp] theorem jumpIf_regByte (taken : Bool) (i : RegIdx) (s : State) :
    jumpIf taken (regByte i) s = .next (s.setPc (if taken = true then (s.reg i).toNat else s.pc + 2)) := by
  rw [jumpIf, withReg_regByte]
  cases taken
  case false => rfl
  case true => rfl

theorem exec_jmp_regByte (i : RegIdx) (s : State) :
    exec (.jmp (regByte i)) s = .next (s.setPc (s.reg i).toNat) :=
  withReg_regByte i s _

theorem exec_jeq_regByte (i : RegIdx) (s : State) :
    exec (.jeq (regByte i)) s =
      .next (s.setPc (if s.fl.getLsbD 0 = true then (s.reg i).toNat else s.pc + 2)) :=
  jumpIf_regByte (flagE s.fl) i s

theorem exec_jgt_regByte (i : RegIdx) (s : State) :
    exec (.jgt (regByte i)) s =
      .next (s.setPc (if s.fl.getLsbD 1 = true then (s.reg i).toNat else s.pc + 2)) :=
  jumpIf_regByte (flagG s.fl) i s

theorem exec_jlt_regByte (i : RegIdx) (s : State) :
    exec (.jlt (regByte i)) s =
      .next (s.setPc (if s.fl.getLsbD 2 = true then (s.reg i).toNat else s.pc + 2)) :=
  jumpIf_regByte (flagL s.fl) i s

/-- Settles O35: JEQ, JGT and JLT are `jumpIf` on bits 0, 1 and 2 of `FL`, and `setPc` changes `pc` alone. -/
theorem jumpsOnASetFlag : Obligations.JumpsOnASetFlag :=
  fun i s => ⟨⟨rfl, rfl, rfl, rfl⟩, exec_jmp_regByte i s, exec_jeq_regByte i s, exec_jgt_regByte i s,
    exec_jlt_regByte i s⟩

end Sys2Proof.Machine
end

section
/-! The interrupt check and the fetch, as the first two steps of a cycle (spec/40_execution_cycle.md R81 to R83). -/

namespace Sys2Proof.Machine

@[simp] theorem timerStep_status (tick : Bool) (s : State) : (timerStep tick s).status = s.status := by
  cases tick
  case false => rfl
  case true => rfl

@[simp] theorem timerStep_out (tick : Bool) (s : State) : (timerStep tick s).out = s.out := by
  cases tick
  case false => rfl
  case true => rfl

/-- Inversion of interrupt entry (R185): it answers only where `pc` fits a byte. -/
theorem interruptEntry_eq_next {i : Fin 8} {s t : State} (h : interruptEntry i s = .next t) :
    s.pc ≤ 255 ∧ t = (enteredFrame i s).jump ((enteredFrame i s).mem.get (Config.vectorBase + i.val)) := by
  rcases Nat.lt_or_ge 255 s.pc with hpc | hpc
  · cases (interruptEntry_fault i hpc).symm.trans h
  · cases (interruptEntry_eq i hpc).symm.trans h
    exact ⟨hpc, rfl⟩

/-- Inversion of the interrupt check (R181): the same state, the state after the timer step, or a handler's first. -/
theorem interruptCheck_eq_next {tick : Bool} {s t : State} (h : interruptCheck tick s = .next t) :
    t = s ∨ t = timerStep tick s ∨ ∃ i, interruptEntry i (timerStep tick s) = .next t := by
  cases hie : s.ie
  case false =>
    cases (interruptCheck_disabled hie tick).symm.trans h
    exact .inl rfl
  case true =>
    rw [interruptCheck_enabled hie tick] at h
    split at h
    next i _ => exact .inr (.inr ⟨i, h⟩)
    next =>
      cases h
      exact .inr (.inl rfl)

/-- The interrupt check leaves `STATUS` and `OUT` alone. -/
theorem interruptCheck_status_out {tick : Bool} {s t : State} (h : interruptCheck tick s = .next t) :
    t.status = s.status ∧ t.out = s.out := by
  obtain rfl | rfl | ⟨i, hentry⟩ := interruptCheck_eq_next h
  · exact ⟨rfl, rfl⟩
  · exact ⟨timerStep_status tick s, timerStep_out tick s⟩
  · obtain ⟨-, rfl⟩ := interruptEntry_eq_next hentry
    simp [enteredFrame]

theorem State.checkedTo.status {s s1 : State} (h : s.checkedTo s1) : s1.status = .running :=
  (interruptCheck_status_out h.2).1.trans h.1

theorem State.checkedTo.out {s s1 : State} (h : s.checkedTo s1) : s1.out = s.out :=
  (interruptCheck_status_out h.2).2

/-- The partner of `fetch_eq` for R83. -/
theorem fetch_fault {s : State} (h : 254 ≤ s.pc) : ∃ addr, fetch s = .fault (.outOfRange addr s.out) := by
  rcases Nat.lt_or_ge s.pc 256 with h0 | h0
  · rcases Nat.lt_or_ge (s.pc + 1) 256 with h1 | h1
    · have h2 : 256 ≤ s.pc + 2 := by omega
      exact ⟨s.pc + 2, by simp [fetch, memRead_of_lt h0, memRead_of_lt h1, memRead_of_ge h2]⟩
    · exact ⟨s.pc + 1, by simp [fetch, memRead_of_lt h0, memRead_of_ge h1]⟩
  · exact ⟨s.pc, by simp [fetch, memRead_of_ge h0]⟩

end Sys2Proof.Machine
end

section
/-! A cycle after its interrupt check (spec/40_execution_cycle.md R80). -/

namespace Sys2Proof.Machine

theorem step_running {s : State} (h : s.status = .running) : step s = runCycle s.tickNow s.nextTick := by
  simp [step, h]

theorem step_halted {s : State} (h : s.status = .halted) : step s = .refused .noCycle := by
  simp [step, h]

/-- Once the interrupt check is done, the rest of the cycle is `fetchAndExecute`. -/
theorem step_of_checkedTo {s s1 : State} (h : s.checkedTo s1) : step s = fetchAndExecute s1 := by
  obtain ⟨hrun, hcheck⟩ := h
  rw [step_running hrun, runCycle, hcheck, andThen_next]

/-- R82 to R85: where the fetch succeeds and its bytes decode, the cycle is the instruction and then the advance. -/
theorem fetchAndExecute_eq {s : State} {i : Instr} (hpc : s.pc ≤ 253)
    (hdec : decode (s.mem.get s.pc) (s.mem.get (s.pc + 1)) (s.mem.get (s.pc + 2)) = .ok i) :
    fetchAndExecute s = andThen (exec i s.latched) fun t => .next (advance t) := by
  have hfetch : fetch s = .next s.latched := fetch_eq hpc
  have hlatched : decodeLatched s.latched = .next i := by
    simp [decodeLatched, State.latched, hdec]
  rw [fetchAndExecute, hfetch, andThen_next, hlatched, andThen_next]

/-- R83: a fetch fault is the cycle's. -/
theorem fetchAndExecute_fault {s : State} (h : 254 ≤ s.pc) :
    ∃ addr, fetchAndExecute s = .fault (.outOfRange addr s.out) := by
  obtain ⟨addr, hfetch⟩ := fetch_fault h
  exact ⟨addr, by rw [fetchAndExecute, hfetch, andThen_fault]⟩

/-- R87 while the machine runs, for an opcode that does not set `pc` itself. -/
theorem advance_running {s : State} (hrun : s.status = .running) (hpc : setsPc s.ir = false) :
    advance s = s.setPc (s.pc + 1 + operandCount s.ir) := by
  simp [advance, hrun, hpc]

/-- R161: after `HLT` the cycle does not reach its advance of `pc`. -/
theorem advance_halted {s : State} (h : s.status = .halted) : advance s = s := by
  simp [advance, h]

end Sys2Proof.Machine
end

section
/-! NOP and HLT (spec/45_system.md R160, R161). -/

namespace Sys2Proof.Machine

theorem exec_nop (s : State) : exec .nop s = .next s := rfl

theorem exec_hlt (s : State) : exec .hlt s = .next s.halt := rfl

/-- R160 as a cycle: `NOP` has no operands, so the advance is by one. -/
theorem fetchAndExecute_nop {s : State} (hrun : s.status = .running) (hpc : s.pc ≤ 253) (hop : s.mem.get s.pc = 0x00) :
    fetchAndExecute s = .next (s.latched.setPc (s.pc + 1)) := by
  have hir : s.latched.ir = 0x00 := hop
  have hadvance : advance s.latched = s.latched.setPc (s.pc + 1) := by
    rw [advance_running (s := s.latched) hrun (by rw [hir]; rfl), hir]
    rfl
  rw [fetchAndExecute_eq hpc (i := .nop) (by rw [hop]; rfl), exec_nop, andThen_next, hadvance]

/-- R161 as a cycle: `pc` stays at the `HLT`. -/
theorem fetchAndExecute_hlt {s : State} (hpc : s.pc ≤ 253) (hop : s.mem.get s.pc = 0x01) :
    fetchAndExecute s = .next s.latched.halt := by
  rw [fetchAndExecute_eq hpc (i := .hlt) (by rw [hop]; rfl), exec_hlt, andThen_next,
    advance_halted (State.halt_status _)]

/-- Settles O38: the interrupt check keeps a RUNNING state RUNNING, so the cycle reaches its advance. -/
theorem nopOnlyAdvancesPc : Obligations.NopOnlyAdvancesPc := by
  refine ⟨rfl, exec_nop, fun s s1 hchecked hpc hop => ?_⟩
  rw [step_of_checkedTo hchecked]
  exact fetchAndExecute_nop hchecked.status hpc hop

/-- Settles O39: the halted state skips the advance, a fetch from 254 on faults before the `HLT` is decoded, with the
`OUT` the interrupt check kept, and a HALTED state is refused a cycle. -/
theorem haltEndsTheRun : Obligations.HaltEndsTheRun := by
  refine ⟨rfl, exec_hlt, fun s s1 hchecked hpc hop => ?_, fun s s1 hchecked hpc => ?_, fun s hhalted t hnext => ?_⟩
  · rw [step_of_checkedTo hchecked]
    exact fetchAndExecute_hlt hpc hop
  · obtain ⟨addr, hfault⟩ := fetchAndExecute_fault hpc
    exact ⟨addr, by rw [step_of_checkedTo hchecked, hfault, hchecked.out]⟩
  · cases (step_halted hhalted).symm.trans hnext

end Sys2Proof.Machine
end

section
/-! The interrupt check (spec/60_exceptions.md R181 to R184). -/

namespace Sys2Proof.Machine

/-- The scan goes through the interrupt numbers in rising order (R184). -/
theorem irqScan_eq_finRange : irqScan = List.finRange 8 := by
  decide

/-- The scan is the library's search for the least number with a property, here R183's condition. -/
theorem pendingIrq_eq_find (s : State) : pendingIrq s = Fin.find? s.irqReady := by
  have hready : (fun n : Fin 8 => (s.reg Config.imReg &&& s.reg Config.isReg).getLsbD n.val) = s.irqReady :=
    funext fun _ => BitVec.getLsbD_and
  rw [pendingIrq, hready, irqScan_eq_finRange, Fin.find?_eq_find?_finRange]

theorem pendingIrq_eq_some {s : State} {i : Fin 8} :
    pendingIrq s = some i ↔ s.irqReady i = true ∧ ∀ j : Fin 8, j < i → s.irqReady j = false := by
  rw [pendingIrq_eq_find, Fin.find?_eq_some_iff]

theorem pendingIrq_eq_none {s : State} : pendingIrq s = none ↔ ∀ i : Fin 8, s.irqReady i = false := by
  rw [pendingIrq_eq_find, Fin.find?_eq_none_iff]

/-- R182: the timer step as one register write. -/
theorem timerStep_eq (tick : Bool) (s : State) :
    timerStep tick s = if tick then s.setReg 6 (s.reg 6 ||| 0b00000001) else s := rfl

/-- Settles O43: `RUNNING` makes the step a cycle, whose first part is the check; the scan finds the lowest ready
interrupt of the state after the timer step. -/
theorem interruptCheckTakesTheLowestReady : Obligations.InterruptCheckTakesTheLowestReady := by
  refine ⟨fun s hrun => step_running hrun, fun tick s => ⟨fun hie => interruptCheck_disabled hie tick, fun hie => ?_⟩⟩
  refine ⟨timerStep tick s, timerStep_eq tick s, fun i hi hlow => ?_, fun hnone => ?_⟩
  · rw [interruptCheck_enabled hie, pendingIrq_eq_some.2 ⟨hi, hlow⟩]
  · rw [interruptCheck_enabled hie, pendingIrq_eq_none.2 hnone]

end Sys2Proof.Machine
end

section
/-! Fatal errors of the instructions (spec/60_exceptions.md R174 to R176, R178). -/

namespace Sys2Proof.Machine

/-- R104 and R105 before their write: the divisor is tested once the operand bytes name registers. -/
theorem aluDivide_zero (f : Byte → Byte → Byte) (i : RegIdx) {j : RegIdx} {s : State} (h : s.reg j = 0) :
    aluDivide f (regByte i) (regByte j) s = .fault (.divisionByZero s.out) := by
  rw [aluDivide, withReg_regByte, withReg_regByte, if_pos h]

theorem exec_div_zero (i : RegIdx) {j : RegIdx} {s : State} (h : s.reg j = 0) :
    exec (.div (regByte i) (regByte j)) s = .fault (.divisionByZero s.out) := by
  rw [exec, execDiv, aluDivide_zero _ i h]

theorem exec_mod_zero (i : RegIdx) {j : RegIdx} {s : State} (h : s.reg j = 0) :
    exec (.mod (regByte i) (regByte j)) s = .fault (.divisionByZero s.out) := by
  rw [exec, execMod, aluDivide_zero _ i h]

/-- Settles O19: DIV and MOD are both `aluDivide`. -/
theorem divModByZeroFault : Obligations.DivModByZeroFault :=
  fun i _ _ h => ⟨exec_div_zero i h, exec_mod_zero i h⟩

/-- Settles O41: a number above 7 fails the test that R175 puts before the write of `IS`. -/
theorem intAbove7Faults : Obligations.IntAbove7Faults := by
  intro i s h
  have hbig : ¬ (s.reg i).toNat < 8 := by omega
  rw [exec, execInt, withReg_regByte, dif_neg hbig]

/-- The fatal errors an instruction raises itself, with `OUT` as given (R170, the rows of step 4). -/
inductive InstrFault (out : List OutEvent) : Fault → Prop
  | invalidRegister (a : Byte) : InstrFault out (.invalidRegister a out)
  | registerIndexOutOfRange (a : Byte) : InstrFault out (.registerIndexOutOfRange a out)
  | invalidInterruptNumber (n : Byte) : InstrFault out (.invalidInterruptNumber n out)
  | divisionByZero : InstrFault out (.divisionByZero out)

/-- Where `r` is a fault, it is one of `InstrFault`. -/
def FaultsAsInstr (out : List OutEvent) (r : Res State) : Prop := ∀ f, r = .fault f → InstrFault out f

theorem FaultsAsInstr.next (out : List OutEvent) (t : State) : FaultsAsInstr out (.next t) :=
  fun _ h => nomatch h

theorem FaultsAsInstr.fault {out : List OutEvent} {f : Fault} (hf : InstrFault out f) :
    FaultsAsInstr out (.fault f) := by
  intro g hg
  cases hg
  exact hf

theorem FaultsAsInstr.withReg {s : State} {k : RegIdx → Res State} (hk : ∀ i, FaultsAsInstr s.out (k i)) (a : Byte) :
    FaultsAsInstr s.out (withReg a s k) := by
  unfold Machine.withReg
  split
  next i _ => exact hk i
  next => exact .fault (.registerIndexOutOfRange a)

theorem FaultsAsInstr.withValidatedReg {s : State} {k : RegIdx → Res State} (hk : ∀ i, FaultsAsInstr s.out (k i))
    (a : Byte) : FaultsAsInstr s.out (withValidatedReg a s k) := by
  unfold Machine.withValidatedReg
  split
  next i _ => exact hk i
  next => exact .fault (.invalidRegister a)

theorem alu2_faults (f : Byte → Byte → Byte) (a b : Byte) (s : State) : FaultsAsInstr s.out (alu2 f a b s) :=
  .withReg (fun _ => .withReg (fun _ => .next _ _) b) a

theorem alu1_faults (f : Byte → Byte) (a : Byte) (s : State) : FaultsAsInstr s.out (alu1 f a s) :=
  .withReg (fun _ => .next _ _) a

theorem aluDivide_faults (f : Byte → Byte → Byte) (a b : Byte) (s : State) :
    FaultsAsInstr s.out (aluDivide f a b s) := by
  refine .withReg (fun i => .withReg (fun j => ?_) b) a
  split
  · exact .fault .divisionByZero
  · exact .next _ _

theorem jumpIf_faults (taken : Bool) (a : Byte) (s : State) : FaultsAsInstr s.out (jumpIf taken a s) :=
  .withReg (fun _ => .next _ _) a

theorem execInt_faults (a : Byte) (s : State) : FaultsAsInstr s.out (execInt a s) := by
  refine .withReg (fun i => ?_) a
  split
  · exact .next _ _
  · exact .fault (.invalidInterruptNumber _)

/-- No instruction raises a fault other than its own: the stack and the data accesses never leave memory (R44), and
every other instruction only checks its register operands. -/
theorem exec_faults (i : Instr) (s : State) : FaultsAsInstr s.out (exec i s) := by
  cases i with
  | nop => exact .next _ _
  | hlt => exact .next _ _
  | ret => rw [exec_ret]; exact .next _ _
  | iret => rw [exec, execIret, interruptReturn_eq]; exact .next _ _
  | push a => exact .withReg (fun i => push_eq (s.reg i) s ▸ .next _ _) a
  | pop a => exact .withReg (fun _ => by rw [pop_eq, andThen_next]; exact .next _ _) a
  | call a => exact .withReg (fun _ => by rw [push_eq, andThen_next]; exact .next _ _) a
  | int a => exact execInt_faults a s
  | prn a => exact .withValidatedReg (fun _ => .next _ _) a
  | ldi a b => exact .withValidatedReg (fun _ => .next _ _) a
  | ld a b =>
    refine .withReg (fun _ => .withReg (fun _ => ?_) b) a
    rw [memRead_of_lt (byte_lt_memSize _), andThen_next]
    exact .next _ _
  | st a b =>
    refine .withReg (fun _ => .withReg (fun _ => ?_) b) a
    rw [memWrite_of_lt (byte_lt_memSize _)]
    exact .next _ _
  | div a b => rw [exec, execDiv]; exact aluDivide_faults _ a b s
  | mod a b => rw [exec, execMod]; exact aluDivide_faults _ a b s
  | cmp a b => exact .withReg (fun _ => .withReg (fun _ => .next _ _) b) a
  | pra a | jmp a => exact .withReg (fun _ => .next _ _) a
  | jeq a | jne a | jgt a | jlt a | jle a | jge a => exact jumpIf_faults _ a s
  | inc a | dec a | not a =>
    simp only [exec, execInc, execDec, execNot]
    exact alu1_faults _ a s
  | add a b | sub a b | mul a b | and a b | or a b | xor a b | shl a b | shr a b =>
    simp only [exec, execAdd, execSub, execMul, execAnd, execOr, execXor, execShl, execShr]
    exact alu2_faults _ a b s

end Sys2Proof.Machine
end

section
/-! Fatal errors of a cycle (spec/60_exceptions.md R172, R173, R177). -/

namespace Sys2Proof.Machine

/-- R173: the fetch has succeeded, and decode rejects the byte. -/
theorem fetchAndExecute_unknown {s : State} (hpc : s.pc ≤ 253) (hop : s.mem.get s.pc ∉ legalOpcodes) :
    fetchAndExecute s = .fault (.invalidInstruction (s.mem.get s.pc) s.out) := by
  have hfetch : fetch s = .next s.latched := fetch_eq hpc
  have hdecode : decodeLatched s.latched = .fault (.invalidInstruction (s.mem.get s.pc) s.out) := by
    simp [decodeLatched, State.latched, decode_of_not_mem hop]
  rw [fetchAndExecute, hfetch, andThen_next, hdecode, andThen_fault]

/-- Settles O12: past the interrupt check the cycle is `fetchAndExecute`, and the check kept `OUT`. -/
theorem unknownOpcodeFaults : Obligations.UnknownOpcodeFaults := by
  intro s s1 hchecked hpc hop
  rw [step_of_checkedTo hchecked, fetchAndExecute_unknown hpc hop, hchecked.out]

/-- Inversion of a fault after the interrupt check: of the fetch (R172), of decode (R173), or of the instruction. -/
theorem fetchAndExecute_eq_fault {s : State} {f : Fault} (h : fetchAndExecute s = .fault f) :
    (254 ≤ s.pc ∧ ∃ addr, f = .outOfRange addr s.out) ∨
      (s.mem.get s.pc ∉ legalOpcodes ∧ f = .invalidInstruction (s.mem.get s.pc) s.out) ∨ InstrFault s.out f := by
  rcases Nat.lt_or_ge 253 s.pc with hpc | hpc
  · obtain ⟨addr, hfault⟩ := fetchAndExecute_fault hpc
    cases hfault.symm.trans h
    exact .inl ⟨hpc, addr, rfl⟩
  · by_cases hop : s.mem.get s.pc ∈ legalOpcodes
    · obtain ⟨i, hi⟩ := exists_decode_of_mem hop (s.mem.get (s.pc + 1)) (s.mem.get (s.pc + 2))
      rw [fetchAndExecute_eq hpc hi] at h
      obtain hexec | ⟨t, -, hnext⟩ := andThen_eq_fault.1 h
      · exact .inr (.inr (exec_faults i s.latched f hexec))
      · cases hnext
    · cases (fetchAndExecute_unknown hpc hop).symm.trans h
      exact .inr (.inl ⟨hop, rfl⟩)

@[simp] theorem timerStep_pc (tick : Bool) (s : State) : (timerStep tick s).pc = s.pc := by
  cases tick
  case false => rfl
  case true => rfl

/-- Inversion of a fault of the interrupt check: only of interrupt entry, with `pc` above 255 (R172). -/
theorem interruptCheck_eq_fault {tick : Bool} {s : State} {f : Fault} (h : interruptCheck tick s = .fault f) :
    s.ie = true ∧ 255 < s.pc ∧ f = .outOfRange s.pc s.out := by
  cases hie : s.ie
  case false => cases (interruptCheck_disabled hie tick).symm.trans h
  case true =>
    have hpc : (timerStep tick s).pc = s.pc := timerStep_pc tick s
    rw [interruptCheck_enabled hie tick] at h
    split at h
    next i _ =>
      rcases Nat.lt_or_ge 255 (timerStep tick s).pc with hbig | hsmall
      · cases (interruptEntry_fault i hbig).symm.trans h
        exact ⟨rfl, hpc ▸ hbig, by rw [hpc, timerStep_out]⟩
      · cases (interruptEntry_eq i hsmall).symm.trans h
    next => cases h

/-- Inversion of a step's fault: all the places a fatal error comes from. -/
theorem step_eq_fault {s : State} {f : Fault} (h : step s = .fault f) :
    (s.ie = true ∧ 255 < s.pc ∧ f = .outOfRange s.pc s.out) ∨
      ∃ s1, s.checkedTo s1 ∧ ((254 ≤ s1.pc ∧ ∃ addr, f = .outOfRange addr s.out) ∨
        (s1.mem.get s1.pc ∉ legalOpcodes ∧ f = .invalidInstruction (s1.mem.get s1.pc) s.out) ∨
        InstrFault s.out f) := by
  cases hstatus : s.status with
  | running =>
    rw [step_running hstatus, runCycle] at h
    obtain hcheck | ⟨s1, hcheck, hrest⟩ := andThen_eq_fault.1 h
    · exact .inl (by simpa using interruptCheck_eq_fault hcheck)
    · have hchecked : s.checkedTo s1 := ⟨hstatus, hcheck⟩
      rw [← hchecked.out]
      exact .inr ⟨s1, hchecked, fetchAndExecute_eq_fault hrest⟩
  | halted => cases (step_halted hstatus).symm.trans h
  | fault k => simp [step, hstatus] at h

/-- Settles O50: `step_eq_fault` lists every fault of a step, and `UnsupportedAluOp` is in none of its cases. -/
theorem unsupportedAluOpIsNeverRaised : Obligations.UnsupportedAluOpIsNeverRaised := by
  intro s out h
  obtain ⟨-, -, hentry⟩ | ⟨s1, -, ⟨-, addr, hfetch⟩ | ⟨-, hdecode⟩ | hinstr⟩ := step_eq_fault h
  · cases hentry
  · cases hfetch
  · cases hdecode
  · cases hinstr

end Sys2Proof.Machine
end

section
/-! Decode and encode (spec/30_encoding.md sections 1, 3 and 6). -/

namespace Sys2Proof

theorem operands_length_le (i : Instr) : i.operands.length ≤ 2 := by
  cases i <;> simp [Instr.operands]

@[simp] theorem encode_length (i : Instr) : (encode i).length = 1 + i.operands.length := by
  rw [encode, List.length_cons, Nat.add_comm]

/-- The decoder takes an instruction's operands from the front of the two bytes after its opcode (R69, R71). -/
theorem decode_opcode_iff (i : Instr) (a b : Byte) :
    decode i.opcode a b = .ok i ↔ i.operands = [a, b].take i.operands.length := by
  cases i with
  | nop | hlt | ret | iret => simp [decode, Instr.opcode, Instr.operands]
  | push x | pop x | prn x | pra x | call x | int x | jmp x | jeq x | jne x | jgt x | jlt x | jle x | jge x
  | inc x | dec x | not x => simp [decode, Instr.opcode, Instr.operands, eq_comm]
  | ldi x y | ld x y | st x y | add x y | sub x y | mul x y | div x y | mod x y | cmp x y | and x y | or x y
  | xor x y | shl x y | shr x y => simp [decode, Instr.opcode, Instr.operands, eq_comm]

end Sys2Proof

namespace Sys2Proof.Machine

/-- Settles O7: the opcode byte fixes the constructor, and `decode_opcode_iff` its operands. -/
theorem decodeAndEncodeAgree : Obligations.DecodeAndEncodeAgree := by
  intro op a b i
  rw [encode, Nat.add_comm, List.take_succ_cons, List.cons.injEq]
  constructor
  · intro h
    obtain rfl := opcode_eq_of_decode h
    rw [operandCount_opcode]
    exact ⟨rfl, (decode_opcode_iff i a b).1 h⟩
  · rintro ⟨rfl, h⟩
    rw [operandCount_opcode] at h
    exact (decode_opcode_iff i a b).2 h

/-- Settles O6: each of the triples is evaluated. -/
theorem wordsOfTheTableDecode : Obligations.WordsOfTheTableDecode := by
  unfold Obligations.WordsOfTheTableDecode
  decide

/-- Settles O8: the bytes at `pc` agree with the encoding where it has bytes, so they decode by O7. -/
theorem encodedInstructionIsFetchedAndDecoded : Obligations.EncodedInstructionIsFetchedAndDecoded := by
  intro i s hpc hbytes
  have hop : s.mem.get s.pc = i.opcode := hbytes 0 (Nat.zero_lt_succ _)
  have hlength := operands_length_le i
  have hencoded : encode i =
      [s.mem.get s.pc, s.mem.get (s.pc + 1), s.mem.get (s.pc + 2)].take (1 + operandCount (s.mem.get s.pc)) := by
    rw [hop, operandCount_opcode, ← hop]
    refine List.ext_getElem (by simp; omega) fun k hk _ => ?_
    rw [encode_length] at hk
    rw [List.getElem_take, ← hbytes k (by rwa [encode_length])]
    match k with
    | 0 | 1 | 2 => rfl
    | k + 3 => omega
  have hdecode := (decodeAndEncodeAgree _ _ _ i).2 hencoded
  exact ⟨fetch_eq hpc, by simp [decodeLatched, State.latched, hdecode]⟩

end Sys2Proof.Machine
end

section
/-! Canonical memories, loading and reset (spec/20_memory.md section 6, spec/10_state.md section 7, log 7). -/

namespace Sys2Proof.Machine

/-- An unlisted cell holds zero (R26). -/
theorem Memory.get_unlisted {m : Memory} {a : Nat} (h : ∀ c ∈ m, c.1 ≠ a) : m.get a = 0 := by
  induction m with
  | nil => rfl
  | cons c m ih =>
    obtain ⟨hc, hm⟩ := List.forall_mem_cons.1 h
    simpa [Memory.get, hc] using ih hm

theorem Memory.get_head (c : Host.Cell) (m : Memory) : Memory.get (c :: m) c.1 = c.2 := by
  simp [Memory.get]

theorem Memory.get_tail {c : Host.Cell} (m : Memory) {a : Nat} (h : c.1 ≠ a) : Memory.get (c :: m) a = m.get a := by
  simp [Memory.get, h]

theorem Memory.wf_cons {c : Host.Cell} {m : Memory} (h : Memory.wf (c :: m)) :
    (∀ d ∈ m, c.1 < d.1) ∧ c.2 ≠ 0 ∧ Memory.wf m := by
  obtain ⟨hpairwise, hcells⟩ := h
  obtain ⟨hlt, hm⟩ := List.pairwise_cons.1 hpairwise
  obtain ⟨⟨-, hc⟩, hcells⟩ := List.forall_mem_cons.1 hcells
  exact ⟨hlt, hc, hm, hcells⟩

/-- A listed cell does not read zero, so a memory that reads alike has a cell no later than it. -/
theorem Memory.head_le {c d : Host.Cell} {m n : Memory} (hm : Memory.wf (c :: m)) (hn : Memory.wf (d :: n))
    (h : ∀ a, Memory.get (c :: m) a = Memory.get (d :: n) a) : d.1 ≤ c.1 := by
  obtain ⟨-, hc, -⟩ := Memory.wf_cons hm
  obtain ⟨hlt, -, -⟩ := Memory.wf_cons hn
  by_contra hcd
  have hunlisted : ∀ e ∈ d :: n, e.1 ≠ c.1 :=
    List.forall_mem_cons.2 ⟨by omega, fun e he => by have := hlt e he; omega⟩
  rw [← Memory.get_head c m, h, Memory.get_unlisted hunlisted] at hc
  exact hc rfl

theorem Memory.wf_eq_nil {m : Memory} (hm : Memory.wf m) (h : ∀ a, m.get a = 0) : m = [] := by
  cases m with
  | nil => rfl
  | cons c m =>
    obtain ⟨-, hc, -⟩ := Memory.wf_cons hm
    exact absurd ((Memory.get_head c m).symm.trans (h c.1)) hc

/-- Settles O5: the first cells of both are at the same address, so they are equal, and the induction goes on with
the rest, which reads zero there. -/
theorem canonicalMemoryIsDeterminedByItsReads : Obligations.CanonicalMemoryIsDeterminedByItsReads := by
  intro m n hm hn h
  induction m generalizing n with
  | nil => exact (Memory.wf_eq_nil hn fun a => (h a).symm).symm
  | cons c m ih =>
    cases n with
    | nil => exact Memory.wf_eq_nil hm h
    | cons d n =>
      have haddr : c.1 = d.1 := Nat.le_antisymm (Memory.head_le hn hm fun a => (h a).symm) (Memory.head_le hm hn h)
      have hcell : c = d := Prod.ext haddr (by rw [← Memory.get_head c m, h, haddr, Memory.get_head])
      subst hcell
      obtain ⟨hcm, -, hm⟩ := Memory.wf_cons hm
      obtain ⟨hcn, -, hn⟩ := Memory.wf_cons hn
      refine congrArg (c :: ·) (ih n hm hn fun a => ?_)
      by_cases ha : c.1 = a
      · subst ha
        rw [Memory.get_unlisted fun d hd => (hcm d hd).ne', Memory.get_unlisted fun d hd => (hcn d hd).ne']
      · rw [← Memory.get_tail m ha, h, Memory.get_tail n ha]

/-- R55: the bytes stand from `a` on in their order, and the loader writes no other cell. -/
theorem Memory.get_load (m : Memory) (a : Nat) (bytes : List Byte) (k : Nat) :
    (m.load a bytes).get k = if k < a then m.get k else bytes.getD (k - a) (m.get k) := by
  induction bytes generalizing m a with
  | nil => simp [Memory.load]
  | cons b bytes ih =>
    rw [Memory.load, ih]
    rcases Nat.lt_trichotomy k a with hk | rfl | hk
    · rw [if_pos (by omega), if_pos hk, Memory.get_put_ne m b hk.ne']
    · rw [if_pos (by omega), if_neg (by omega), Memory.get_put_self, Nat.sub_self, List.getD_cons_zero]
    · have hsub : k - a = k - (a + 1) + 1 := by omega
      rw [if_neg (by omega), if_neg (by omega), Memory.get_put_ne m b hk.ne, hsub, List.getD_cons_succ]

theorem Memory.load_wf {m : Memory} {a : Nat} {bytes : List Byte} (hm : Memory.wf m)
    (hfit : a + bytes.length ≤ Config.memSize) : Memory.wf (m.load a bytes) := by
  induction bytes generalizing m a with
  | nil => exact hm
  | cons b bytes ih =>
    rw [List.length_cons] at hfit
    exact ih (Memory.put_wf b hm (by omega)) (by omega)

/-- Settles O1: the registers one by one, and a memory without cells reads zero. -/
theorem resetStateIsAsSpecified : Obligations.ResetStateIsAsSpecified := by
  have hgpr : ∀ i : RegIdx, i.val < 5 → State.reset.reg i = 0x00 := by decide
  exact ⟨rfl, rfl, rfl, rfl, rfl, rfl, rfl, rfl, hgpr, fun a ha => memRead_of_lt ha State.reset⟩

/-- Settles O3: the memory has no cells. -/
theorem resetMeetsInvariant : Obligations.ResetMeetsInvariant :=
  ⟨⟨.nil, fun _ hc => nomatch hc⟩, Nat.zero_le _, .inl rfl⟩

/-- Settles O2: `Memory.get_load` on an empty memory, at address 0. -/
theorem loadImageFillsMemoryFromZero : Obligations.LoadImageFillsMemoryFromZero := by
  intro image
  have hget : ∀ k, (Memory.load State.reset.mem 0 image).get k = image.getD k 0 := fun k => by
    rw [Memory.get_load, if_neg (Nat.not_lt_zero k), Nat.sub_zero]
    rfl
  obtain ⟨hmem, hpc, hstatus⟩ := resetMeetsInvariant
  refine ⟨fun hfit => ⟨_, if_pos hfit, fun k hk => ?_, fun k hk => ?_, ⟨?_, hpc, hstatus⟩, rfl⟩,
    fun hlong => if_neg (Nat.not_le.2 hlong)⟩
  · exact (hget k).trans (List.getD_eq_getElem image 0 hk)
  · exact (hget k).trans (List.getD_eq_default image 0 hk)
  · exact Memory.load_wf hmem (by simpa using hfit)

end Sys2Proof.Machine
end

section
/-! What an instruction can do, said once (spec/40_execution_cycle.md sections 1 and 2). -/

namespace Sys2Proof

open Machine

/-- The register that is all an instruction writes: of `INC`, `DEC`, `NOT`, `LDI`, `LD`, the ALU operations that write a
register, and `INT`. -/
def Instr.soleDestination : Instr → Option RegIdx
  | .inc a | .dec a | .not a | .ldi a _ | .ld a _ => regOperand? a
  | .add a _ | .sub a _ | .mul a _ | .div a _ | .mod a _ => regOperand? a
  | .and a _ | .or a _ | .xor a _ | .shl a _ | .shr a _ => regOperand? a
  | .int _ => some Config.isReg
  | .nop | .hlt | .ret | .iret | .push _ | .pop _ | .prn _ | .pra _ | .call _ | .st _ _ | .cmp _ _ => none
  | .jmp _ | .jeq _ | .jne _ | .jgt _ | .jlt _ | .jle _ | .jge _ => none

/-- The seven jumps (spec/44_jumps.md). -/
def Instr.isJump : Instr → Bool
  | .jmp _ | .jeq _ | .jne _ | .jgt _ | .jlt _ | .jle _ | .jge _ => true
  | .nop | .hlt | .ret | .iret | .push _ | .pop _ | .prn _ | .pra _ | .call _ | .int _ => false
  | .inc _ | .dec _ | .not _ | .ldi _ _ | .ld _ _ | .st _ _ => false
  | .add _ _ | .sub _ _ | .mul _ _ | .div _ _ | .mod _ _ | .cmp _ _ => false
  | .and _ _ | .or _ _ | .xor _ _ | .shl _ _ | .shr _ _ => false

end Sys2Proof

namespace Sys2Proof.Machine

/-- The state an `IRET` answers (R163). -/
def afterIret (s : State) : State :=
  let s1 := returnedRegs s
  let s2 := (popped s1).setFl (s1.mem.get (s1.reg Config.spReg).toNat)
  ((popped s2).jump (s2.mem.get (s2.reg Config.spReg).toNat)).setIe true

theorem exec_iret (s : State) : exec .iret s = .next (afterIret s) := interruptReturn_eq s

/-- All that an instruction can change, by the kind of the instruction. -/
inductive Effect (s : State) : Instr → State → Prop
  | nop : Effect s .nop s
  | hlt : Effect s .hlt s.halt
  | write {i : Instr} {r : RegIdx} (hr : i.soleDestination = some r) (v : Byte) : Effect s i (s.setReg r v)
  | cmp (a b fl : Byte) : Effect s (.cmp a b) (s.setFl fl)
  | store (r : RegIdx) (b v : Byte) : Effect s (.st (regByte r) b) (s.setMem (s.mem.put (s.reg r).toNat v))
  | prn (a v : Byte) : Effect s (.prn a) (s.emit (.dec v))
  | pra (a v : Byte) : Effect s (.pra a) (s.emit (.chr v))
  | jump {i : Instr} (hi : i.isJump = true) {n : Nat} (hn : n ≤ 255 ∨ n = s.pc + 2) : Effect s i (s.setPc n)
  | push (a v : Byte) : Effect s (.push a) (pushed v s)
  | pop (r : RegIdx) (v : Byte) : Effect s (.pop (regByte r)) ((popped s).setReg r v)
  | call (a v target : Byte) : Effect s (.call a) ((pushed v s).jump target)
  | ret (target : Byte) : Effect s .ret ((popped s).jump target)
  | iret : Effect s .iret (afterIret s)

/-- Why an instruction can fault: a register operand above 7, a zero divisor, an interrupt number above 7 (R86, R175,
R176). -/
inductive StopReason (s : State) : Instr → Prop
  | operand {i : Instr} (hi : i.wf = false) : StopReason s i
  | divisor {i : Instr} {a : Byte} {j : RegIdx} (hi : i = .div a (regByte j) ∨ i = .mod a (regByte j))
      (hj : s.reg j = 0) : StopReason s i
  | interruptNumber {j : RegIdx} (hj : 7 < (s.reg j).toNat) : StopReason s (.int (regByte j))

/-- An answer of `exec`: a next state within the instruction's effects, or a fault for one of the reasons. -/
inductive Answers (s : State) (i : Instr) : Res State → Prop
  | next {t : State} (ht : Effect s i t) : Answers s i (.next t)
  | fault (f : Fault) (hi : StopReason s i) : Answers s i (.fault f)

theorem not_wf_of_bad {i : Instr} {a : Byte} (ha : a ∈ i.regOperands) (hbad : regOperand? a = none) :
    i.wf = false := by
  have hnames : namesReg a = false := by
    simpa [namesReg] using regOperand?_eq_none.1 hbad
  exact List.all_eq_false.2 ⟨a, ha, by simp [hnames]⟩

theorem Answers.withReg {s : State} {i : Instr} {a : Byte} {k : RegIdx → Res State} (ha : a ∈ i.regOperands)
    (hk : ∀ r, a = regByte r → Answers s i (k r)) : Answers s i (withReg a s k) := by
  unfold Machine.withReg
  split
  next r hr => exact hk r (regOperand?_eq_some.1 hr)
  next hbad => exact .fault _ (.operand (not_wf_of_bad ha hbad))

theorem Answers.withValidatedReg {s : State} {i : Instr} {a : Byte} {k : RegIdx → Res State}
    (ha : a ∈ i.regOperands) (hk : ∀ r, a = regByte r → Answers s i (k r)) :
    Answers s i (withValidatedReg a s k) := by
  unfold Machine.withValidatedReg
  split
  next r hr => exact hk r (regOperand?_eq_some.1 hr)
  next hbad => exact .fault _ (.operand (not_wf_of_bad ha hbad))

section
variable {s : State} {i : Instr} {a b : Byte}

theorem alu1_answers (f : Byte → Byte) (ha : a ∈ i.regOperands) (hd : i.soleDestination = regOperand? a) :
    Answers s i (alu1 f a s) := by
  refine .withReg ha fun r hr => .next (.write ?_ _)
  rw [hd, hr, regOperand?_regByte]

theorem alu2_answers (f : Byte → Byte → Byte) (hab : i.regOperands = [a, b])
    (hd : i.soleDestination = regOperand? a) : Answers s i (alu2 f a b s) := by
  refine .withReg (by simp [hab]) fun r hr => .withReg (by simp [hab]) fun _ _ => .next (.write ?_ _)
  rw [hd, hr, regOperand?_regByte]

theorem aluDivide_answers (f : Byte → Byte → Byte) (hab : i.regOperands = [a, b])
    (hd : i.soleDestination = regOperand? a) (hi : i = .div a b ∨ i = .mod a b) :
    Answers s i (aluDivide f a b s) := by
  refine .withReg (by simp [hab]) fun r hr => .withReg (by simp [hab]) fun j hj => ?_
  split
  next hzero => exact .fault _ (.divisor (hj ▸ hi) hzero)
  next =>
    refine .next (.write ?_ _)
    rw [hd, hr, regOperand?_regByte]

theorem jumpIf_answers (taken : Bool) (ha : a ∈ i.regOperands) (hi : i.isJump = true) :
    Answers s i (jumpIf taken a s) := by
  refine .withReg ha fun r _ => .next ?_
  cases taken
  case false => exact .jump hi (.inr rfl)
  case true => exact .jump hi (.inl (Nat.le_of_lt_succ (s.reg r).isLt))

end

/-- What every instruction answers: never a refusal, a fault only for one of the reasons, and otherwise a state that
differs by the instruction's effect alone. -/
theorem exec_answers (i : Instr) (s : State) : Answers s i (exec i s) := by
  cases i with
  | nop => exact .next .nop
  | hlt => exact .next .hlt
  | ret => rw [exec_ret, ← popped_eq]; exact .next (.ret _)
  | iret => rw [exec_iret]; exact .next .iret
  | push a => exact .withReg (List.mem_singleton_self a) fun r _ => push_eq (s.reg r) s ▸ .next (.push a _)
  | pop a =>
    refine .withReg (List.mem_singleton_self a) ?_
    rintro r rfl
    rw [pop_eq, andThen_next]
    exact .next (.pop r _)
  | call a =>
    refine .withReg (List.mem_singleton_self a) fun r _ => ?_
    rw [push_eq, andThen_next]
    exact .next (.call a _ _)
  | int a =>
    refine .withReg (List.mem_singleton_self a) ?_
    rintro r rfl
    split
    next => exact .next (.write rfl _)
    next hbig => exact .fault _ (.interruptNumber (by omega))
  | prn a => exact .withValidatedReg (List.mem_singleton_self a) fun _ _ => .next (.prn a _)
  | pra a => exact .withReg (List.mem_singleton_self a) fun _ _ => .next (.pra a _)
  | jmp a =>
    exact .withReg (List.mem_singleton_self a) fun r _ => .next (.jump rfl (.inl (Nat.le_of_lt_succ (s.reg r).isLt)))
  | jeq a | jne a | jgt a | jlt a | jle a | jge a => exact jumpIf_answers _ (List.mem_singleton_self a) rfl
  | inc a | dec a | not a =>
    simp only [exec, execInc, execDec, execNot]
    exact alu1_answers _ (List.mem_singleton_self a) rfl
  | ldi a b =>
    exact .withValidatedReg (List.mem_singleton_self a) fun r hr => .next (.write (hr ▸ regOperand?_regByte r) b)
  | ld a b =>
    refine .withReg List.mem_cons_self fun r hr => .withReg (by simp [Instr.regOperands]) fun j _ => ?_
    rw [memRead_of_lt (byte_lt_memSize _), andThen_next]
    exact .next (.write (hr ▸ regOperand?_regByte r) _)
  | st a b =>
    refine .withReg List.mem_cons_self ?_
    rintro r rfl
    refine .withReg (by simp [Instr.regOperands]) fun j _ => ?_
    rw [memWrite_of_lt (byte_lt_memSize _)]
    exact .next (.store r b _)
  | cmp a b =>
    exact .withReg List.mem_cons_self fun _ _ => .withReg (by simp [Instr.regOperands]) fun _ _ => .next (.cmp a b _)
  | div a b => rw [exec, execDiv]; exact aluDivide_answers _ rfl rfl (.inl rfl)
  | mod a b => rw [exec, execMod]; exact aluDivide_answers _ rfl rfl (.inr rfl)
  | add a b | sub a b | mul a b | and a b | or a b | xor a b | shl a b | shr a b =>
    simp only [exec, execAdd, execSub, execMul, execAnd, execOr, execXor, execShl, execShr]
    exact alu2_answers _ rfl rfl

/-- Inversion of `exec`. -/
theorem effect_of_exec {i : Instr} {s t : State} (h : exec i s = .next t) : Effect s i t := by
  have hans := exec_answers i s
  rw [h] at hans
  cases hans with
  | next ht => exact ht

theorem exec_ne_refused (i : Instr) (s : State) (r : Refusal) : exec i s ≠ .refused r := by
  intro h
  have hans := exec_answers i s
  rw [h] at hans
  cases hans

end Sys2Proof.Machine
end

section
/-! Register operands out of range and in range (spec/40_execution_cycle.md R86, section 2). -/

namespace Sys2Proof.Machine

/-- `a` is the first of the operand bytes that names no register. -/
abbrev FirstBad (operands : List Byte) (a : Byte) : Prop :=
  operands.find? (fun x => decide (7 < x.toNat)) = some a

theorem withReg_firstBad {x a : Byte} {xs : List Byte} {s : State} {k : RegIdx → Res State}
    (h : FirstBad (x :: xs) a) (hk : FirstBad xs a → ∀ r, k r = .fault (.registerIndexOutOfRange a s.out)) :
    withReg x s k = .fault (.registerIndexOutOfRange a s.out) := by
  by_cases hx : 7 < x.toNat
  · obtain rfl : x = a := by simpa [FirstBad, hx] using h
    exact withReg_bad hx s k
  · have hxs : FirstBad xs a := by simpa [FirstBad, hx] using h
    obtain ⟨r, rfl⟩ : ∃ r : RegIdx, x = regByte r := ⟨⟨x.toNat, by omega⟩, eq_regByte_of_toNat_eq rfl⟩
    rw [withReg_regByte]
    exact hk hxs r

theorem withReg_firstBad_one {x a : Byte} (h : FirstBad [x] a) (s : State) (k : RegIdx → Res State) :
    withReg x s k = .fault (.registerIndexOutOfRange a s.out) :=
  withReg_firstBad h nofun

theorem withReg_firstBad_two {x y a : Byte} (h : FirstBad [x, y] a) (s : State) (k : RegIdx → RegIdx → Res State) :
    (withReg x s fun i => withReg y s fun j => k i j) = .fault (.registerIndexOutOfRange a s.out) :=
  withReg_firstBad h fun hy _ => withReg_firstBad_one hy s _

theorem withValidatedReg_firstBad {x a : Byte} (h : FirstBad [x] a) (s : State) (k : RegIdx → Res State) :
    withValidatedReg x s k = .fault (.invalidRegister a s.out) := by
  obtain ⟨hx, rfl⟩ : 7 < x.toNat ∧ x = a := by simpa [FirstBad] using h
  exact withValidatedReg_bad hx s k

/-- Settles O48: every meaning begins with its operand checks, operand a before operand b, so the first bad one is
the fault, before any condition, divisor or write. -/
theorem badRegisterOperandFaults : Obligations.BadRegisterOperandFaults := by
  intro i s a h
  cases i with
  | nop | hlt | ret | iret => cases h
  | ldi x y | prn x => exact withValidatedReg_firstBad h s _
  | push x | pop x | pra x | call x | int x | jmp x | jeq x | jne x | jgt x | jlt x | jle x | jge x
  | inc x | dec x | not x => exact withReg_firstBad_one h s _
  | ld x y | st x y | add x y | sub x y | mul x y | div x y | mod x y | cmp x y | and x y | or x y | xor x y
  | shl x y | shr x y => exact withReg_firstBad_two h s _

/-- Settles O49: `exec_answers` has no fault whose reason the hypotheses leave open. -/
theorem goodOperandsComplete : Obligations.GoodOperandsComplete := by
  intro i s hwf hdivisor hnumber
  have hans := exec_answers i s
  generalize exec i s = r at hans
  cases hans with
  | next ht => exact ⟨_, rfl⟩
  | fault f hreason =>
    cases hreason with
    | operand hbad => simp [hwf] at hbad
    | divisor hi hzero => exact absurd hzero (hdivisor _ _ hi)
    | interruptNumber hbig => exact absurd (hnumber _ rfl) (Nat.not_le.2 hbig)

/-- Settles O51: no instruction has `OutOfRange` among its faults, and `step_eq_fault` gives the two places left. -/
theorem outOfRangeComesOnlyFromFetchOrEntry : Obligations.OutOfRangeComesOnlyFromFetchOrEntry := by
  refine ⟨fun i s addr out h => ?_, fun s addr out h => ?_⟩
  · cases exec_faults i s _ h
  obtain ⟨hie, hpc, -⟩ | ⟨s1, hchecked, ⟨hpc, -⟩ | ⟨-, hdecode⟩ | hinstr⟩ := step_eq_fault h
  · exact .inl ⟨hie, hpc⟩
  · exact .inr ⟨s1, hchecked, hpc⟩
  · cases hdecode
  · cases hinstr

end Sys2Proof.Machine
end

section
/-! Frames: what no instruction changes but those that are there for it (spec/10_state.md, spec/20_memory.md R43). -/

namespace Sys2Proof

open Machine

/-! The kinds of `Effect` that hold of several instructions, in terms of the tables of the statements. -/

section
variable {i : Instr} {r : RegIdx}

theorem mem_writtenRegs_of_soleDestination (h : i.soleDestination = some r) : r ∈ i.writtenRegs := by
  cases i <;> simp_all [Instr.soleDestination, Instr.writtenRegs]

theorem leavesPcToHandler_of_isJump (h : i.isJump = true) : i.leavesPcToHandler = true := by
  cases i <;> simp_all [Instr.isJump, Instr.leavesPcToHandler]

end

end Sys2Proof

namespace Sys2Proof.Machine

@[simp] theorem afterIret_mem (s : State) : (afterIret s).mem = s.mem := by simp [afterIret, returnedRegs]
@[simp] theorem afterIret_ir (s : State) : (afterIret s).ir = s.ir := by simp [afterIret, returnedRegs]
@[simp] theorem afterIret_opa (s : State) : (afterIret s).opa = s.opa := by simp [afterIret, returnedRegs]
@[simp] theorem afterIret_opb (s : State) : (afterIret s).opb = s.opb := by simp [afterIret, returnedRegs]
@[simp] theorem afterIret_ticks (s : State) : (afterIret s).ticks = s.ticks := by simp [afterIret, returnedRegs]
@[simp] theorem afterIret_cycle (s : State) : (afterIret s).cycle = s.cycle := by simp [afterIret, returnedRegs]
@[simp] theorem afterIret_status (s : State) : (afterIret s).status = s.status := by simp [afterIret, returnedRegs]
@[simp] theorem afterIret_out (s : State) : (afterIret s).out = s.out := by simp [afterIret, returnedRegs]
@[simp] theorem afterIret_ie (s : State) : (afterIret s).ie = true := rfl

section
variable {i : Instr} {s t : State}

theorem Effect.reg (h : Effect s i t) {k : RegIdx} (hk : k ∉ i.writtenRegs) : t.reg k = s.reg k := by
  cases h with
  | nop | hlt | cmp | store | prn | pra | jump => rfl
  | write hr v => exact State.reg_setReg_ne s v fun hrk => hk (hrk ▸ mem_writtenRegs_of_soleDestination hr)
  | push a v => exact State.reg_setReg_ne s _ fun hrk => hk (hrk ▸ List.mem_singleton_self _)
  | call a v target => exact State.reg_setReg_ne s _ fun hrk => hk (hrk ▸ List.mem_singleton_self _)
  | ret target => exact State.reg_setReg_ne s _ fun hrk => hk (hrk ▸ List.mem_singleton_self _)
  | pop r v =>
    simp only [Instr.writtenRegs, regOperand?_regByte, Option.toList_some, List.mem_cons, not_or] at hk
    obtain ⟨hsp, hr, -⟩ := hk
    rw [State.reg_setReg_ne _ v (Ne.symm hr), State.reg_setReg_ne s _ (Ne.symm hsp)]
  | iret => exact absurd (by revert k; decide) hk

theorem Effect.mem (h : Effect s i t) {a : Nat} (ha : i.storedAddr s ≠ some a) : t.mem.get a = s.mem.get a := by
  cases h with
  | nop | hlt | write | cmp | prn | pra | jump | pop | ret => rfl
  | iret => rw [afterIret_mem]
  | store r b v =>
    exact Memory.get_put_ne s.mem v fun haddr => ha (by simp [Instr.storedAddr, haddr])
  | push b v => exact Memory.get_put_ne s.mem v fun haddr => ha (congrArg some haddr)
  | call b v target => exact Memory.get_put_ne s.mem v fun haddr => ha (congrArg some haddr)

theorem Effect.fl (h : Effect s i t) (hiret : i ≠ .iret) (hcmp : ∀ a b, i ≠ .cmp a b) : t.fl = s.fl := by
  cases h with
  | nop | hlt | write | store | prn | pra | jump | push | pop | call | ret => rfl
  | cmp a b => exact absurd rfl (hcmp a b)
  | iret => exact absurd rfl hiret

/-- The latches and the timer fields: no kind of effect has any. -/
theorem Effect.latches_timer (h : Effect s i t) :
    t.ir = s.ir ∧ t.opa = s.opa ∧ t.opb = s.opb ∧ t.ticks = s.ticks ∧ t.cycle = s.cycle := by
  cases h with
  | nop | hlt | write | cmp | store | prn | pra | jump | push | pop | call | ret => exact ⟨rfl, rfl, rfl, rfl, rfl⟩
  | iret => simp

theorem Effect.ie (h : Effect s i t) (hiret : i ≠ .iret) : t.ie = s.ie := by
  cases h with
  | nop | hlt | write | cmp | store | prn | pra | jump | push | pop | call | ret => rfl
  | iret => exact absurd rfl hiret

theorem Effect.status (h : Effect s i t) (hhlt : i ≠ .hlt) : t.status = s.status := by
  cases h with
  | nop | write | cmp | store | prn | pra | jump | push | pop | call | ret => rfl
  | iret => rw [afterIret_status]
  | hlt => exact absurd rfl hhlt

theorem Effect.out (h : Effect s i t) (hprn : ∀ a, i ≠ .prn a) (hpra : ∀ a, i ≠ .pra a) : t.out = s.out := by
  cases h with
  | nop | hlt | write | cmp | store | jump | push | pop | call | ret => rfl
  | iret => rw [afterIret_out]
  | prn a => exact absurd rfl (hprn a)
  | pra a => exact absurd rfl (hpra a)

theorem Effect.pc (h : Effect s i t) (hi : i.leavesPcToHandler = false ∨ ∃ a, i = .int a) : t.pc = s.pc := by
  cases h with
  | nop | hlt | write | cmp | store | prn | pra | push | pop => rfl
  | jump hjump =>
    obtain hkeeps | ⟨a, rfl⟩ := hi
    · simp [leavesPcToHandler_of_isJump hjump] at hkeeps
    · cases hjump
  | call | ret | iret => simp [Instr.leavesPcToHandler] at hi

end

/-- Settles O52. -/
theorem registersOutsideDestinationsKeep : Obligations.RegistersOutsideDestinationsKeep :=
  fun _ _ _ h _ hk => (effect_of_exec h).reg hk

/-- Settles O53. -/
theorem memoryOutsideTheStoredByteKeeps : Obligations.MemoryOutsideTheStoredByteKeeps :=
  fun _ _ _ h _ ha => (effect_of_exec h).mem ha

/-- Settles O54. -/
theorem flagsKeepExceptCmpAndIret : Obligations.FlagsKeepExceptCmpAndIret :=
  fun _ _ _ h hiret hcmp => (effect_of_exec h).fl hiret hcmp

/-- Settles O55: the frame of each field, read off the kinds of `Effect`. -/
theorem controlStateKeeps : Obligations.ControlStateKeeps := by
  intro i s t h
  have heffect := effect_of_exec h
  obtain ⟨hir, hopa, hopb, hticks, hcycle⟩ := heffect.latches_timer
  refine ⟨hir, hopa, hopb, hticks, hcycle, heffect.ie, heffect.status, heffect.out, fun hi => heffect.pc ?_⟩
  rwa [setsPc_opcode] at hi

end Sys2Proof.Machine
end

section
/-! ALU results as numbers modulo 256 (spec/41_alu.md). -/

namespace Sys2Proof.Machine

theorem trunc8_eq {v : Int} {x : Byte} (h : v % 256 = x.toNat) : trunc8 v = x := by
  have htrunc := toNat_trunc8 v
  exact BitVec.eq_of_toNat_eq (by omega)

section
variable {s : State} {i j : RegIdx} {v : Byte}

theorem alu2_gives {f : Byte → Byte → Byte} (h : f (s.reg i) (s.reg j) = v) :
    alu2 f (regByte i) (regByte j) s = .next (s.setReg i v) := by
  rw [alu2_regByte, h]

theorem alu1_gives {f : Byte → Byte} (h : f (s.reg i) = v) : alu1 f (regByte i) s = .next (s.setReg i v) := by
  rw [alu1, withReg_regByte, h]

theorem aluDivide_gives {f : Byte → Byte → Byte} (hj : s.reg j ≠ 0) (h : f (s.reg i) (s.reg j) = v) :
    aluDivide f (regByte i) (regByte j) s = .next (s.setReg i v) := by
  rw [aluDivide, withReg_regByte, withReg_regByte, if_neg hj, h]

end

/-- Settles O17: the three are `alu2`, and truncation is the remainder modulo 256; adding 256 before the subtraction
does not change it. -/
theorem addSubMulWrapModulo256 : Obligations.AddSubMulWrapModulo256 := by
  intro i j s
  have hj := (s.reg j).isLt
  simp only [exec, execAdd, execSub, execMul]
  refine ⟨alu2_gives (trunc8_eq ?_), alu2_gives (trunc8_eq ?_), alu2_gives (trunc8_eq ?_)⟩
  · rw [BitVec.toNat_ofNat]; omega
  · rw [BitVec.toNat_ofNat]; omega
  · rw [BitVec.toNat_ofNat, Int.natCast_emod, Int.natCast_mul]; rfl

/-- Settles O18: quotient and remainder are the bit vectors' own, with the division law of `Nat`. -/
theorem divModGiveQuotientAndRemainder : Obligations.DivModGiveQuotientAndRemainder := by
  intro i j s hj
  have hi := (s.reg i).isLt
  have hpos : 0 < (s.reg j).toNat := Nat.pos_of_ne_zero fun h => hj (BitVec.eq_of_toNat_eq h)
  have hquot : (s.reg i).toNat / (s.reg j).toNat ≤ (s.reg i).toNat := Nat.div_le_self _ _
  have hrem : (s.reg i).toNat % (s.reg j).toNat ≤ (s.reg i).toNat := Nat.mod_le _ _
  simp only [exec, execDiv, execMod]
  refine ⟨s.reg i / s.reg j, s.reg i % s.reg j, aluDivide_gives hj (trunc8_eq ?_), aluDivide_gives hj (trunc8_eq ?_),
    ?_, ?_⟩
  · rw [BitVec.toNat_udiv]; exact_mod_cast Nat.mod_eq_of_lt (hquot.trans_lt hi)
  · rw [BitVec.toNat_umod]; exact_mod_cast Nat.mod_eq_of_lt (hrem.trans_lt hi)
  · rw [BitVec.toNat_udiv, BitVec.toNat_umod, Nat.div_add_mod']
  · rw [BitVec.toNat_umod]; exact Nat.mod_lt _ hpos

/-- Settles O20: the bit vectors' own operations have the same values modulo 256. -/
theorem incDecNotOfOneRegister : Obligations.IncDecNotOfOneRegister := by
  intro i s
  have hi := (s.reg i).isLt
  have hone : (1 : Byte).toNat = 1 := rfl
  simp only [exec, execInc, execDec, execNot]
  refine ⟨alu1_gives (trunc8_eq ?_), alu1_gives (trunc8_eq ?_), alu1_gives (trunc8_eq ?_)⟩
  · rw [BitVec.toNat_add, hone]; omega
  · rw [BitVec.toNat_sub, hone]; omega
  · rw [BitVec.toNat_not]; omega

/-- Settles O22: a shift by `n` places is a product with `2 ^ n` or a division by it. -/
theorem shiftsUseTheWholeAmount : Obligations.ShiftsUseTheWholeAmount := by
  intro i j s
  simp only [exec, execShl, execShr]
  refine ⟨alu2_gives (BitVec.eq_of_toNat_eq ?_), alu2_gives (BitVec.eq_of_toNat_eq ?_)⟩
  · rw [BitVec.toNat_shiftLeft, Nat.shiftLeft_eq, BitVec.toNat_ofNat]
  · have hle : (s.reg i).toNat / 2 ^ (s.reg j).toNat ≤ (s.reg i).toNat := Nat.div_le_self _ _
    rw [BitVec.toNat_ushiftRight, Nat.shiftRight_eq_div_pow, BitVec.toNat_ofNat,
      Nat.mod_eq_of_lt (hle.trans_lt (s.reg i).isLt)]

theorem exec_cmp_regByte (i j : RegIdx) (s : State) :
    exec (.cmp (regByte i) (regByte j)) s = .next (s.setFl (compareFlags (s.reg i) (s.reg j))) := by
  rw [exec, execCmp, withReg_regByte, withReg_regByte]

/-! What `CMP` writes, by the order of the two values (R114). -/

theorem compareFlags_of_eq {x y : Byte} (h : x.toNat = y.toNat) : compareFlags x y = 0b001 :=
  if_pos h

theorem compareFlags_of_gt {x y : Byte} (h : y.toNat < x.toNat) : compareFlags x y = 0b010 := by
  rw [compareFlags, if_neg h.ne', if_pos h]

theorem compareFlags_of_lt {x y : Byte} (h : x.toNat < y.toNat) : compareFlags x y = 0b100 := by
  rw [compareFlags, if_neg h.ne, if_neg h.not_gt]

/-- Settles O23: `compareFlags` in each of the three orders. -/
theorem compareSetsExactlyOneFlag : Obligations.CompareSetsExactlyOneFlag :=
  fun i j s => ⟨_, exec_cmp_regByte i j s, compareFlags_of_eq, compareFlags_of_gt, compareFlags_of_lt⟩

end Sys2Proof.Machine
end

section
/-! The jumps on two flags, and a jump after `CMP` (spec/44_jumps.md). -/

namespace Sys2Proof.Machine

theorem exec_jne_regByte (i : RegIdx) (s : State) :
    exec (.jne (regByte i)) s =
      .next (s.setPc (if s.fl.getLsbD 0 = false then (s.reg i).toNat else s.pc + 2)) := by
  simp only [exec, execJne, jumpIf_regByte, flagE, Bool.not_eq_true']

theorem exec_jge_regByte (i : RegIdx) (s : State) :
    exec (.jge (regByte i)) s =
      .next (s.setPc (if s.fl.getLsbD 1 = true ∨ s.fl.getLsbD 0 = true then (s.reg i).toNat else s.pc + 2)) := by
  simp only [exec, execJge, jumpIf_regByte, flagG, flagE, Bool.or_eq_true]

theorem exec_jle_regByte (i : RegIdx) (s : State) :
    exec (.jle (regByte i)) s =
      .next (s.setPc (if s.fl.getLsbD 2 = true ∨ s.fl.getLsbD 0 = true then (s.reg i).toNat else s.pc + 2)) := by
  simp only [exec, execJle, jumpIf_regByte, flagL, flagE, Bool.or_eq_true]

/-- Settles O36: the three are `jumpIf` on their predicates of R152, R155, R156. -/
theorem jumpsOnCombinedFlags : Obligations.JumpsOnCombinedFlags :=
  fun i s => ⟨exec_jne_regByte i s, exec_jge_regByte i s, exec_jle_regByte i s⟩

/-- After `CMP` each flag holds one of the three comparisons (R114, R158). -/
theorem compareFlags_bits (x y : Byte) :
    (compareFlags x y).getLsbD 0 = decide (x = y) ∧ (compareFlags x y).getLsbD 1 = decide (y < x) ∧
      (compareFlags x y).getLsbD 2 = decide (x < y) := by
  simp only [BitVec.lt_def, ← BitVec.toNat_inj]
  rcases Nat.lt_trichotomy x.toNat y.toNat with h | h | h
  · rw [compareFlags_of_lt h]; simp [h, h.ne, h.le]
  · rw [compareFlags_of_eq h]; simp [h]
  · rw [compareFlags_of_gt h]; simp [h, h.ne', h.le]

/-- Settles O37: the jump tests the flags that `compareFlags_bits` gives, on registers that `CMP` left alone. -/
theorem compareThenJumpDecides : Obligations.CompareThenJumpDecides := by
  intro i j k s t h
  cases (exec_cmp_regByte i j s).symm.trans h
  obtain ⟨hE, hG, hL⟩ := compareFlags_bits (s.reg i) (s.reg j)
  have hge : s.reg j ≤ s.reg i ↔ s.reg j < s.reg i ∨ s.reg i = s.reg j := by
    simp only [BitVec.le_def, BitVec.lt_def, ← BitVec.toNat_inj]; omega
  have hle : s.reg i ≤ s.reg j ↔ s.reg i < s.reg j ∨ s.reg i = s.reg j := by
    simp only [BitVec.le_def, BitVec.lt_def, ← BitVec.toNat_inj]; omega
  rw [exec_jeq_regByte, exec_jne_regByte, exec_jgt_regByte, exec_jlt_regByte, exec_jge_regByte, exec_jle_regByte]
  simp only [State.setFl_fl, State.setFl_reg, State.setFl_pc, hE, hG, hL, decide_eq_true_eq, decide_eq_false_iff_not,
    hge, hle]
  exact ⟨rfl, rfl, rfl, rfl, rfl, rfl⟩

end Sys2Proof.Machine
end

section
/-! Load, store and output on operand bytes that name registers, and a store seen by a fetch (spec/20_memory.md
section 5). -/

namespace Sys2Proof.Machine

theorem exec_ld_regByte (i j : RegIdx) (s : State) :
    exec (.ld (regByte i) (regByte j)) s = .next (s.setReg i (s.mem.get (s.reg j).toNat)) := by
  rw [exec, execLd, withReg_regByte, withReg_regByte, memRead_of_lt (byte_lt_memSize _), andThen_next]

/-- Settles O30: the address is a byte, so the read is in range. -/
theorem loadReadsTheAddressedByte : Obligations.LoadReadsTheAddressedByte := exec_ld_regByte

/-- Settles O34: past the operand check PRA is one `emit`. -/
theorem printCharacterEmitsTheRegister : Obligations.PrintCharacterEmitsTheRegister :=
  fun i s => withReg_regByte i s _

/-- An `ST` as a cycle: its three bytes stay in the latches, whatever it stores over (R53). -/
theorem fetchAndExecute_st {s : State} {i j : RegIdx} (hrun : s.status = .running) (hpc : s.pc ≤ 253)
    (hop : s.mem.get s.pc = 0x84) (ha : s.mem.get (s.pc + 1) = regByte i) (hb : s.mem.get (s.pc + 2) = regByte j) :
    fetchAndExecute s =
      .next ((s.latched.setMem (s.mem.put (s.reg i).toNat (s.reg j))).setPc (s.pc + 3)) := by
  have hir : s.latched.ir = 0x84 := hop
  have hexec : exec (.st (regByte i) (regByte j)) s.latched =
      .next (s.latched.setMem (s.mem.put (s.reg i).toNat (s.reg j))) := exec_st_regByte i j s.latched
  rw [fetchAndExecute_eq hpc (i := .st (regByte i) (regByte j)) (by rw [hop, ha, hb]; rfl), hexec, andThen_next,
    advance_running (by exact hrun) (by rw [State.setMem_ir, hir]; rfl), State.setMem_ir, hir]
  rfl

/-- Settles O32: both fetches read the memory that the `ST` put its byte in. -/
theorem storeIsSeenByTheNextFetch : Obligations.StoreIsSeenByTheNextFetch := by
  refine fun i j => ⟨fun s t h p hp => ?_, fun s s1 hchecked hpc hop ha hb => ?_⟩
  · cases (exec_st_regByte i j s).symm.trans h
    exact ⟨_, fetch_eq hp, Memory.get_put _ _ _ _, Memory.get_put _ _ _ _, Memory.get_put _ _ _ _⟩
  · have hstep := (step_of_checkedTo hchecked).trans (fetchAndExecute_st hchecked.status hpc hop ha hb)
    refine ⟨_, hstep, rfl, hop, ha, hb,
      fun hnext => ⟨_, fetch_eq hnext, fun haddr => ?_, fun haddr => ?_, fun haddr => ?_⟩⟩
    · exact haddr ▸ Memory.get_put_self s1.mem (s1.reg i).toNat (s1.reg j)
    · exact haddr ▸ Memory.get_put_self s1.mem (s1.reg i).toNat (s1.reg j)
    · exact haddr ▸ Memory.get_put_self s1.mem (s1.reg i).toNat (s1.reg j)

end Sys2Proof.Machine
end

section
/-! PUSH, POP, CALL and RET (spec/42_stack_call.md). -/

namespace Sys2Proof.Machine

/-- R56 as one equation: `SP` one less modulo 256, the byte at the address it then holds, and nothing else changed. -/
theorem pushed_eq (v : Byte) (s : State) :
    pushed v s = (s.setReg 7 (s.reg 7 - 1)).setMem (s.mem.put (s.reg 7 - 1).toNat v) := by
  rw [pushed, pushedSp_eq]

theorem pushed_sp (v : Byte) (s : State) : (pushed v s).reg 7 = s.reg 7 - 1 := by
  rw [pushed_eq]
  exact State.reg_setReg_self s 7 _

theorem pushed_get_self (v : Byte) (s : State) : (pushed v s).mem.get (s.reg 7 - 1).toNat = v := by
  rw [pushed_eq]
  exact Memory.get_put_self s.mem _ v

theorem exec_push_regByte (i : RegIdx) (s : State) : exec (.push (regByte i)) s = .next (pushed (s.reg i) s) := by
  rw [exec, execPush, withReg_regByte, push_eq]

theorem exec_pop_regByte (i : RegIdx) (s : State) :
    exec (.pop (regByte i)) s = .next ((s.setReg 7 (s.reg 7 + 1)).setReg i (s.mem.get (s.reg 7).toNat)) := by
  rw [exec, execPop, withReg_regByte, pop_eq, andThen_next, popped_eq]

/-- R132: the target is the register as it is after the push. -/
theorem exec_call_regByte (i : RegIdx) (s : State) :
    exec (.call (regByte i)) s =
      .next ((pushed (trunc8 (s.pc + 2)) s).jump (if i = 7 then s.reg 7 - 1 else s.reg i)) := by
  rw [exec, execCall, withReg_regByte, push_eq, andThen_next, pushed_eq, State.setMem_reg, State.reg_setReg]
  simp only [eq_comm]

/-- Settles O24: the state after a push as `pushed_eq` writes it, and the state after a pop. -/
theorem pushAndPopMoveOneByte : Obligations.PushAndPopMoveOneByte := by
  intro i s
  have hpush := exec_push_regByte i s
  rw [pushed_eq] at hpush
  refine ⟨⟨_, hpush, State.reg_setReg_self _ _ _, Memory.get_put_self _ _ _, fun a ha => ?_, rfl⟩,
    exec_pop_regByte i s⟩
  exact Memory.get_put_ne s.mem _ ha.symm

/-- Settles O25: the POP reads the cell that the PUSH wrote, and its increment undoes the decrement. -/
theorem pushThenPopRoundTrips : Obligations.PushThenPopRoundTrips := by
  intro i j s t h
  cases (exec_push_regByte i s).symm.trans h
  refine ⟨_, exec_pop_regByte j _, ?_, fun hj => ?_, fun k hkj hk7 => ?_⟩
  · rw [State.reg_setReg_self, pushed_sp, pushed_get_self]
  · rw [State.reg_setReg_ne _ _ hj, State.reg_setReg_self, pushed_sp, BitVec.sub_add_cancel]
  · rw [State.reg_setReg_ne _ _ hkj.symm, State.reg_setReg_ne _ _ hk7.symm]
    exact State.reg_setReg_ne s _ hk7.symm

/-- The return address fits a byte wherever a `CALL` can be fetched (log 9). -/
theorem toNat_returnAddress {pc : Nat} (h : pc ≤ 253) : (trunc8 ((pc : Int) + 2)).toNat = pc + 2 := by
  have htrunc := toNat_trunc8 ((pc : Int) + 2)
  omega

/-- Settles O26: a push and a jump. -/
theorem callPushesTheReturnAddress : Obligations.CallPushesTheReturnAddress := by
  intro i s hpc
  have hcall := exec_call_regByte i s
  rw [pushed_eq] at hcall
  refine ⟨_, hcall, State.reg_setReg_self _ _ _, ?_, fun a ha => ?_, rfl, rfl⟩
  · exact (congrArg BitVec.toNat (Memory.get_put_self _ _ _)).trans (toNat_returnAddress hpc)
  · exact Memory.get_put_ne s.mem _ ha.symm

/-- Settles O28: RET pops the byte that O26 says the CALL pushed. -/
theorem callThenReturnResumes : Obligations.CallThenReturnResumes := by
  intro i s t t' hpc hcall hsp hbyte
  obtain ⟨u, hu, hspCall, hreturn, -⟩ := callPushesTheReturnAddress i s hpc
  cases hu.symm.trans hcall
  rw [hspCall] at hsp hbyte
  refine ⟨_, exec_ret t', ?_, ?_⟩
  · rw [State.jump_pc, hsp, hbyte, hreturn]
  · rw [State.jump_reg, State.reg_setReg_self, hsp, BitVec.sub_add_cancel]

end Sys2Proof.Machine
end

section
/-! Several pushes and pops in a row, by distance from `SP` (spec/20_memory.md R44, R56, R57). -/

namespace Sys2Proof.Machine

/-- The state after pushing bytes, the first of the list first. -/
def pushedBytes : List Byte → State → State
  | [], s => s
  | v :: vs, s => pushedBytes vs (pushed v s)

/-- Pushing registers other than `SP` pushes the bytes they hold at the start. -/
theorem pushedRegs_eq_pushedBytes {is : List RegIdx} (his : 7 ∉ is) (s : State) :
    pushedRegs is s = pushedBytes (is.map s.reg) s := by
  induction is generalizing s with
  | nil => rfl
  | cons i is ih =>
    obtain ⟨-, his⟩ := List.ne_and_not_mem_of_not_mem_cons his
    have hregs : is.map (pushed (s.reg i) s).reg = is.map s.reg :=
      List.map_congr_left fun k hk => State.reg_setReg_ne s _ fun h : 7 = k => his (h ▸ hk)
    rw [pushedRegs, ih his, hregs]
    rfl

theorem pushedBytes_frame (vs : List Byte) (s : State) :
    pushedBytes vs s = { s with regs := (pushedBytes vs s).regs, mem := (pushedBytes vs s).mem } := by
  induction vs generalizing s with
  | nil => rfl
  | cons v vs ih => exact ih (pushed v s)

theorem pushedBytes_reg_ne (vs : List Byte) (s : State) {k : RegIdx} (hk : k ≠ 7) :
    (pushedBytes vs s).reg k = s.reg k := by
  induction vs generalizing s with
  | nil => rfl
  | cons v vs ih => exact (ih (pushed v s)).trans (State.reg_setReg_ne s _ hk.symm)

theorem pushedBytes_sp (vs : List Byte) (s : State) :
    (pushedBytes vs s).reg 7 = s.reg 7 - BitVec.ofNat 8 vs.length := by
  induction vs generalizing s with
  | nil => exact (BitVec.sub_zero _).symm
  | cons v vs ih =>
    rw [pushedBytes, ih, pushed_sp, List.length_cons]
    bv_omega

/-- The cells from the old `SP` down to the new one are the only ones that pushes write. -/
theorem pushedBytes_get_ne (vs : List Byte) (s : State) {a : Nat}
    (ha : ∀ n, 1 ≤ n → n ≤ vs.length → a ≠ (s.reg 7 - BitVec.ofNat 8 n).toNat) :
    (pushedBytes vs s).mem.get a = s.mem.get a := by
  induction vs generalizing s with
  | nil => rfl
  | cons v vs ih =>
    have hrest : ∀ n, 1 ≤ n → n ≤ vs.length → a ≠ ((pushed v s).reg 7 - BitVec.ofNat 8 n).toNat := by
      intro n _ hn
      have hsub : (pushed v s).reg 7 - BitVec.ofNat 8 n = s.reg 7 - BitVec.ofNat 8 (n + 1) := by
        rw [pushed_sp]; bv_omega
      rw [hsub]
      exact ha (n + 1) (by omega) (Nat.succ_le_succ hn)
    rw [pushedBytes, ih _ hrest, pushed_eq]
    exact Memory.get_put_ne s.mem v (ha 1 (Nat.le_refl 1) (Nat.succ_le_succ (Nat.zero_le _))).symm

/-- Byte `k` of the pushed ones stands `k + 1` below the old `SP`: later pushes do not come round to it. -/
theorem pushedBytes_get {vs : List Byte} (hvs : vs.length ≤ 256) (s : State) {k : Nat} (hk : k < vs.length) :
    (pushedBytes vs s).mem.get (s.reg 7 - BitVec.ofNat 8 (k + 1)).toNat = vs[k] := by
  induction vs generalizing s k with
  | nil => cases hk
  | cons v vs ih =>
    rw [List.length_cons] at hvs hk
    cases k with
    | zero =>
      have hbelow : ∀ n, 1 ≤ n → n ≤ vs.length →
          (s.reg 7 - BitVec.ofNat 8 1).toNat ≠ ((pushed v s).reg 7 - BitVec.ofNat 8 n).toNat := by
        intro n hn hnvs
        rw [pushed_sp]
        bv_omega
      rw [pushedBytes, pushedBytes_get_ne vs _ hbelow]
      exact pushed_get_self v s
    | succ k =>
      have hsub : s.reg 7 - BitVec.ofNat 8 (k + 1 + 1) = (pushed v s).reg 7 - BitVec.ofNat 8 (k + 1) := by
        rw [pushed_sp]; bv_omega
      rw [pushedBytes, hsub]
      exact ih (by omega) (pushed v s) (by omega)

theorem popped_reg_ne (s : State) (v : Byte) {i k : RegIdx} (hk : k ≠ 7) (hki : k ≠ i) :
    ((popped s).setReg i v).reg k = s.reg k := by
  rw [State.reg_setReg_ne _ v hki.symm, State.reg_setReg_ne s _ hk.symm]

theorem popped_sp (s : State) (v : Byte) {i : RegIdx} (hi : i ≠ 7) :
    ((popped s).setReg i v).reg 7 = s.reg 7 + 1 := by
  rw [State.reg_setReg_ne _ v hi, popped_eq, State.reg_setReg_self]

theorem poppedRegs_reg_ne {is : List RegIdx} (s : State) {k : RegIdx} (hk : k ≠ 7) (his : k ∉ is) :
    (poppedRegs is s).reg k = s.reg k := by
  induction is generalizing s with
  | nil => rfl
  | cons i is ih =>
    obtain ⟨hki, his⟩ := List.ne_and_not_mem_of_not_mem_cons his
    rw [poppedRegs, ih _ his, popped_reg_ne s _ hk hki]

theorem poppedRegs_sp {is : List RegIdx} (his : 7 ∉ is) (s : State) :
    (poppedRegs is s).reg 7 = s.reg 7 + BitVec.ofNat 8 is.length := by
  induction is generalizing s with
  | nil => exact (BitVec.add_zero _).symm
  | cons i is ih =>
    obtain ⟨hi, his⟩ := List.ne_and_not_mem_of_not_mem_cons his
    rw [poppedRegs, ih his, popped_sp s _ hi.symm, List.length_cons]
    bv_omega

/-- The `k`-th register popped receives the byte `k` above the old `SP`, and no later pop writes it. -/
theorem poppedRegs_reg {is : List RegIdx} (his : 7 ∉ is) (hnodup : is.Nodup) (s : State) {k : Nat}
    (hk : k < is.length) : (poppedRegs is s).reg is[k] = s.mem.get (s.reg 7 + BitVec.ofNat 8 k).toNat := by
  induction is generalizing s k with
  | nil => cases hk
  | cons i is ih =>
    obtain ⟨hi, his⟩ := List.ne_and_not_mem_of_not_mem_cons his
    obtain ⟨hiis, hnodup⟩ := List.nodup_cons.1 hnodup
    cases k with
    | zero =>
      rw [poppedRegs, List.getElem_cons_zero, poppedRegs_reg_ne _ hi.symm hiis, State.reg_setReg_self, BitVec.add_zero]
    | succ k =>
      have hadd : s.reg 7 + BitVec.ofNat 8 (k + 1) = s.reg 7 + 1 + BitVec.ofNat 8 k := by bv_omega
      rw [poppedRegs, List.getElem_cons_succ, ih his hnodup _ (Nat.lt_of_succ_lt_succ hk), popped_sp s _ hi.symm, hadd]
      rfl

end Sys2Proof.Machine
end

section
/-! INT, interrupt entry and IRET (spec/45_system.md, spec/60_exceptions.md sections 4 and 5). -/

namespace Sys2Proof.Machine

theorem irqBit_getLsbD (n : Fin 8) {k : Nat} (hk : k < 8) : (irqBit n).getLsbD k = decide (k = n.val) := by
  revert k n
  decide

/-- Settles O40: R162's write of `IS` is an `or` with the one bit of the number. -/
theorem intMakesAnInterruptPending : Obligations.IntMakesAnInterruptPending := by
  intro i s hnumber
  have hlt : (s.reg i).toNat < 8 := Nat.lt_succ_of_le hnumber
  refine ⟨s.reg 6 ||| irqBit ⟨(s.reg i).toNat, hlt⟩, ?_, fun k hk => ?_⟩
  · rw [exec, execInt, withReg_regByte, dif_pos hlt]
    rfl
  · rw [BitVec.getLsbD_or, irqBit_getLsbD _ hk]

/-- States that agree on every field `IRET` leaves alone differ by the others. -/
theorem State.eq_with_regs_fl_pc_ie {s t : State} (hir : t.ir = s.ir) (ha : t.opa = s.opa) (hb : t.opb = s.opb)
    (hm : t.mem = s.mem) (hst : t.status = s.status) (ho : t.out = s.out) (ht : t.ticks = s.ticks)
    (hc : t.cycle = s.cycle) : t = { s with regs := t.regs, fl := t.fl, pc := t.pc, ie := t.ie } :=
  State.ext_reg (fun _ => rfl) rfl hir ha hb rfl rfl hm hst ho ht hc

/-! `IRET` reads the frame from `SP` upwards (R163). -/

theorem returnedRegs_reg (s : State) {k : RegIdx} (hk : k.val < 7) :
    (returnedRegs s).reg k = s.mem.get (s.reg 7 + BitVec.ofNat 8 (6 - k.val)).toNat := by
  have hlen : 6 - k.val < [6, 5, 4, 3, 2, 1, (0 : RegIdx)].length := by simp; omega
  have hget : [6, 5, 4, 3, 2, 1, (0 : RegIdx)][6 - k.val] = k := by revert k; decide
  have hreg := poppedRegs_reg (by decide) (by decide) s hlen
  rwa [hget] at hreg

theorem returnedRegs_sp (s : State) : (returnedRegs s).reg 7 = s.reg 7 + 7 :=
  poppedRegs_sp (by decide) s

@[simp] theorem returnedRegs_mem (s : State) : (returnedRegs s).mem = s.mem := poppedRegs_mem _ s

theorem afterIret_reg (s : State) {k : RegIdx} (hk : k ≠ 7) : (afterIret s).reg k = (returnedRegs s).reg k := by
  simp [afterIret, State.reg_setReg, hk.symm]

theorem afterIret_sp (s : State) : (afterIret s).reg 7 = s.reg 7 + 9 := by
  simp [afterIret, poppedSp_eq, returnedRegs_sp, BitVec.add_assoc]

theorem afterIret_fl (s : State) : (afterIret s).fl = s.mem.get (s.reg 7 + 7).toNat := by
  simp [afterIret, returnedRegs_sp]

theorem afterIret_pc (s : State) : (afterIret s).pc = (s.mem.get (s.reg 7 + 8).toNat).toNat := by
  simp [afterIret, poppedSp_eq, returnedRegs_sp, BitVec.add_assoc]

/-- Settles O42: seven registers are popped, then `FL`, then `pc`, each from one address further up. -/
theorem iretPopsTheFrame : Obligations.IretPopsTheFrame := by
  intro s
  refine ⟨afterIret s, exec_iret s, fun k hk => ?_, afterIret_sp s, afterIret_fl s, afterIret_pc s, afterIret_ie s,
    ?_⟩
  · have hk7 : k ≠ 7 := by rintro rfl; exact absurd hk (by decide)
    rw [afterIret_reg s hk7, returnedRegs_reg s hk]
  · exact State.eq_with_regs_fl_pc_ie (afterIret_ir s) (afterIret_opa s) (afterIret_opb s) (afterIret_mem s)
      (afterIret_status s) (afterIret_out s) (afterIret_ticks s) (afterIret_cycle s)

/-! Entry pushes nine bytes in a row (R185). -/

/-- The state whose registers entry pushes: interrupts disabled, the bit of the interrupt cleared. -/
def entryStart (i : Fin 8) (s : State) : State := (s.setIe false).clearIrq i

/-- The nine bytes of a frame, in the order of the pushes. -/
def frameBytes (i : Fin 8) (s : State) : List Byte :=
  BitVec.ofNat 8 s.pc :: s.fl :: [0, 1, 2, 3, 4, 5, 6].map (entryStart i s).reg

theorem entryStart_reg_is (i : Fin 8) (s : State) : (entryStart i s).reg 6 = s.reg 6 &&& ~~~ (1#8 <<< i.val) :=
  State.reg_setReg_self _ _ _

theorem entryStart_reg_ne (i : Fin 8) (s : State) {k : RegIdx} (hk : k ≠ 6) : (entryStart i s).reg k = s.reg k :=
  State.reg_setReg_ne _ _ hk.symm

theorem enteredFrame_eq (i : Fin 8) (s : State) :
    enteredFrame i s = pushedBytes (frameBytes i s) (entryStart i s) := by
  have htrunc : trunc8 (s.pc : Int) = BitVec.ofNat 8 s.pc := BitVec.ofInt_natCast 8 s.pc
  have hregs : ∀ vs, [0, 1, 2, 3, 4, 5, 6].map (pushedBytes vs (entryStart i s)).reg =
      [0, 1, 2, 3, 4, 5, 6].map (entryStart i s).reg := fun vs =>
    List.map_congr_left fun k hk => pushedBytes_reg_ne vs _ fun h => by subst h; revert hk; decide
  calc enteredFrame i s
    _ = pushedRegs [0, 1, 2, 3, 4, 5, 6] (pushedBytes [BitVec.ofNat 8 s.pc, s.fl] (entryStart i s)) := by
      rw [enteredFrame, htrunc]
      rfl
    _ = pushedBytes ([0, 1, 2, 3, 4, 5, 6].map (entryStart i s).reg)
          (pushedBytes [BitVec.ofNat 8 s.pc, s.fl] (entryStart i s)) := by
      rw [pushedRegs_eq_pushedBytes (by decide), hregs]
    _ = pushedBytes (frameBytes i s) (entryStart i s) := rfl

theorem enteredFrame_frame (i : Fin 8) (s : State) :
    enteredFrame i s =
      { s with regs := (enteredFrame i s).regs, ie := false, mem := (enteredFrame i s).mem } := by
  rw [enteredFrame_eq]
  exact pushedBytes_frame _ _

theorem enteredFrame_sp (i : Fin 8) (s : State) : (enteredFrame i s).reg 7 = s.reg 7 - 9 := by
  rw [enteredFrame_eq, pushedBytes_sp, entryStart_reg_ne i s (by decide)]
  rfl

theorem enteredFrame_reg_is (i : Fin 8) (s : State) :
    (enteredFrame i s).reg 6 = s.reg 6 &&& ~~~ (1#8 <<< i.val) := by
  rw [enteredFrame_eq, pushedBytes_reg_ne _ _ (by decide), entryStart_reg_is]

theorem enteredFrame_reg (i : Fin 8) (s : State) {k : RegIdx} (hk : k < 6) : (enteredFrame i s).reg k = s.reg k := by
  rw [enteredFrame_eq, pushedBytes_reg_ne _ _ (hk.trans (by decide)).ne, entryStart_reg_ne i s hk.ne]

theorem enteredFrame_get (i : Fin 8) (s : State) {k : Nat} (hk : k < 9) :
    (enteredFrame i s).mem.get (s.reg 7 - BitVec.ofNat 8 (k + 1)).toNat = (frameBytes i s)[k] := by
  rw [enteredFrame_eq, ← entryStart_reg_ne i s (k := 7) (by decide)]
  exact pushedBytes_get (by simp [frameBytes]) _ hk

/-- Register `k` stands `3 + k` below the old `SP`, as entry has it when it pushes. -/
theorem enteredFrame_get_reg (i : Fin 8) (s : State) {k : RegIdx} (hk : k < 7) :
    (enteredFrame i s).mem.get (s.reg 7 - BitVec.ofNat 8 (3 + k.val)).toNat = (entryStart i s).reg k := by
  have hget : [0, 1, 2, 3, 4, 5, (6 : RegIdx)][k.val] = k := by revert k; decide
  have hlt : k.val + 2 < 9 := Nat.add_lt_add_right hk 2
  rw [show 3 + k.val = k.val + 2 + 1 by omega, enteredFrame_get i s hlt]
  simp only [frameBytes, List.getElem_cons_succ, List.getElem_map, hget]

theorem enteredFrame_get_ne (i : Fin 8) (s : State) {a : Nat}
    (ha : ∀ n, 1 ≤ n → n ≤ 9 → a ≠ (s.reg 7 - BitVec.ofNat 8 n).toNat) :
    (enteredFrame i s).mem.get a = s.mem.get a := by
  rw [enteredFrame_eq, pushedBytes_get_ne]
  · rfl
  · rwa [entryStart_reg_ne i s (by decide)]

/-- Settles O44: `enteredFrame` is nine pushes from `entryStart`, whose cells and other fields the lemmas on
`pushedBytes` give; the vector is read from the memory after them. -/
theorem interruptEntryBuildsTheFrame : Obligations.InterruptEntryBuildsTheFrame := by
  intro i s
  refine ⟨fun hpc => ⟨_, interruptEntry_eq i hpc, ?_⟩, fun hpc => interruptEntry_fault i hpc⟩
  have hframe := enteredFrame_frame i s
  have hsp := enteredFrame_sp i s
  have his := enteredFrame_reg_is i s
  have hregs : ∀ k : RegIdx, k.val < 6 → (enteredFrame i s).reg k = s.reg k :=
    fun k hk => enteredFrame_reg i s hk
  have hpcCell : (enteredFrame i s).mem.get (s.reg 7 - 1).toNat = BitVec.ofNat 8 s.pc :=
    enteredFrame_get i s (k := 0) (by decide)
  have hflCell : (enteredFrame i s).mem.get (s.reg 7 - 2).toNat = s.fl :=
    enteredFrame_get i s (k := 1) (by decide)
  have hregCell : ∀ k : RegIdx, k.val < 6 →
      (enteredFrame i s).mem.get (s.reg 7 - BitVec.ofNat 8 (3 + k.val)).toNat = s.reg k := fun k hk =>
    (enteredFrame_get_reg i s (Nat.lt_succ_of_lt hk)).trans (entryStart_reg_ne i s (Fin.ne_of_lt hk))
  have hisCell : (enteredFrame i s).mem.get (s.reg 7 - 9).toNat = s.reg 6 &&& ~~~ (1#8 <<< i.val) :=
    (enteredFrame_get_reg i s (k := 6) (by decide)).trans (entryStart_reg_is i s)
  have hother := @enteredFrame_get_ne i s
  generalize enteredFrame i s = e at *
  generalize e.regs = r, e.mem = m at hframe
  subst hframe
  exact ⟨rfl, hsp, his, hregs, hpcCell, hflCell, hregCell, hisCell, fun _ => hother, rfl, rfl⟩

/-- Settles O45: the frame that O42 reads upwards from the new `SP` is the one that O44 wrote downwards from the old. -/
theorem entryThenIretRestores : Obligations.EntryThenIretRestores := by
  intro i s t t' hentry hsp hbytes
  obtain ⟨hpc, -⟩ := interruptEntry_eq_next hentry
  obtain ⟨t₀, ht₀, -, hspEntry, -, -, hpcCell, hflCell, hregCell, hisCell, -⟩ :=
    (interruptEntryBuildsTheFrame i s).1 hpc
  cases ht₀.symm.trans hentry
  obtain ⟨u, hu, huregs, husp, hufl, hupc, huie, -⟩ := iretPopsTheFrame t'
  have hframe : ∀ n, n < 9 → t'.mem.get (t'.reg 7 + BitVec.ofNat 8 n).toNat =
      t.mem.get (s.reg 7 - BitVec.ofNat 8 (9 - n)).toNat := by
    intro n hn
    have hdistance : s.reg 7 - 9 + BitVec.ofNat 8 n = s.reg 7 - BitVec.ofNat 8 (9 - n) := by bv_omega
    rw [hsp, hbytes n hn, hspEntry, hdistance]
  refine ⟨u, hu, fun k hk => ?_, ?_, ?_, ?_, huie⟩
  · by_cases hk7 : k = 7
    · rw [hk7, husp, hsp, hspEntry, BitVec.sub_add_cancel]
    · have hk6 : k.val < 6 := by
        have hne6 : k.val ≠ 6 := fun h => hk (Fin.ext h)
        have hne7 : k.val ≠ 7 := fun h => hk7 (Fin.ext h)
        omega
      rw [huregs k (by omega), hframe _ (by omega), show 9 - (6 - k.val) = 3 + k.val by omega, hregCell k hk6]
  · exact (huregs 6 (by decide)).trans ((hframe 0 (by decide)).trans hisCell)
  · exact hufl.trans ((hframe 7 (by decide)).trans hflCell)
  · have hpcByte : t'.mem.get (t'.reg 7 + 8).toNat = BitVec.ofNat 8 s.pc := (hframe 8 (by decide)).trans hpcCell
    rw [hupc, hpcByte, BitVec.toNat_ofNat, Nat.mod_eq_of_lt (Nat.lt_succ_of_le hpc)]

end Sys2Proof.Machine
end

section
/-! A cycle that answers a next state (spec/40_execution_cycle.md R80, R87). -/

namespace Sys2Proof.Machine

/-- R87: the advance writes `pc` alone. -/
theorem exists_advance_eq_setPc (s : State) : ∃ n, advance s = s.setPc n := by
  unfold advance
  split
  next =>
    split
    next => exact ⟨s.pc, rfl⟩
    next => exact ⟨_, rfl⟩
  next => exact ⟨s.pc, rfl⟩
  next => exact ⟨s.pc, rfl⟩

/-- The advance as the length of the instruction's encoding (R62, R87, R161). -/
theorem advance_eq {i : Instr} {s : State} (hstatus : s.status = .running ∨ s.status = .halted)
    (hir : s.ir = i.opcode) :
    advance s = if s.status = .halted then s
      else if setsPc i.opcode then s else s.setPc (s.pc + (encode i).length) := by
  obtain hrun | hhalted := hstatus
  · rw [if_neg (by rw [hrun]; decide)]
    simp only [advance, hrun, hir, operandCount_opcode, encode_length, Nat.add_assoc]
  · rw [advance_halted hhalted, if_pos hhalted]

/-- A cycle after its interrupt check: a fault before dispatch, or an instruction and the advance. -/
theorem fetchAndExecute_cases (s : State) :
    (∃ f, fetchAndExecute s = .fault f) ∨ s.pc ≤ 253 ∧ ∃ i, s.latched.ir = i.opcode ∧
      fetchAndExecute s = andThen (exec i s.latched) fun t => .next (advance t) := by
  rcases Nat.lt_or_ge 253 s.pc with hpc | hpc
  · obtain ⟨addr, hfault⟩ := fetchAndExecute_fault hpc
    exact .inl ⟨_, hfault⟩
  · by_cases hop : s.mem.get s.pc ∈ legalOpcodes
    · obtain ⟨i, hi⟩ := exists_decode_of_mem hop (s.mem.get (s.pc + 1)) (s.mem.get (s.pc + 2))
      exact .inr ⟨hpc, i, opcode_eq_of_decode hi, fetchAndExecute_eq hpc hi⟩
    · exact .inl ⟨_, fetchAndExecute_unknown hpc hop⟩

theorem step_not_running {s : State} (h : s.status ≠ .running) : step s = .refused .noCycle := by
  cases hstatus : s.status with
  | running => exact absurd hstatus h
  | halted => exact step_halted hstatus
  | fault k => simp [step, hstatus]

/-- Inversion of a step's next state: an instruction after the check and the fetch, and the advance. -/
theorem step_eq_next {s t : State} (h : step s = .next t) :
    ∃ (s1 : State) (i : Instr) (u : State), s.checkedTo s1 ∧ s1.pc ≤ 253 ∧ s1.latched.ir = i.opcode ∧
      exec i s1.latched = .next u ∧ t = advance u := by
  by_cases hrun : s.status = .running
  · rw [step_running hrun] at h
    obtain ⟨s1, hcheck, hrest⟩ := andThen_eq_next.1 h
    obtain ⟨f, hfault⟩ | ⟨hpc, i, hir, heq⟩ := fetchAndExecute_cases s1
    · cases hfault.symm.trans hrest
    · obtain ⟨u, hexec, hadvance⟩ := andThen_eq_next.1 (heq.symm.trans hrest)
      cases hadvance
      exact ⟨s1, i, u, ⟨hrun, hcheck⟩, hpc, hir, hexec, rfl⟩
  · cases (step_not_running hrun).symm.trans h

/-- `STATUS` after an instruction: as before, or HALTED by `HLT`. -/
theorem exec_status_cases {i : Instr} {s t : State} (h : exec i s = .next t) :
    t.status = s.status ∨ i = .hlt ∧ t.status = .halted := by
  by_cases hhlt : i = .hlt
  · subst hhlt
    cases (exec_hlt s).symm.trans h
    exact .inr ⟨rfl, rfl⟩
  · exact .inl ((effect_of_exec h).status hhlt)

/-- `OUT` after an instruction: as before, or with one event appended. -/
theorem Effect.out_cases {i : Instr} {s t : State} (h : Effect s i t) :
    t.out = s.out ∨ ∃ e, t.out = s.out ++ [e] := by
  cases h with
  | nop | hlt | write | cmp | store | jump | push | pop | call | ret => exact .inl rfl
  | iret => exact .inl (afterIret_out s)
  | prn a v => exact .inr ⟨.dec v, rfl⟩
  | pra a v => exact .inr ⟨.chr v, rfl⟩

end Sys2Proof.Machine
end

section
/-! The outcomes of a cycle and its ports (spec/00_scope.md section 5, spec/40_execution_cycle.md section 2,
spec/60_exceptions.md section 6). -/

namespace Sys2Proof.Machine

/-- Settles O10: the step is `exec` and `advance`, and the instruction left `IR` as fetched, so `advance_eq` applies. -/
theorem stepRunsTheDecodedInstruction : Obligations.StepRunsTheDecodedInstruction := by
  intro s s1 i hchecked hpc hdecode
  have hstep : step s = andThen (exec i s1.latched) fun t => .next (advance t) :=
    (step_of_checkedTo hchecked).trans (fetchAndExecute_eq hpc hdecode)
  refine ⟨fun t hexec => ?_, fun f hexec => ?_, exec_ne_refused i s1.latched⟩
  · have hir : t.ir = i.opcode := (effect_of_exec hexec).latches_timer.1.trans (opcode_eq_of_decode hdecode)
    have hstatus : t.status = .running ∨ t.status = .halted :=
      (exec_status_cases hexec).imp (fun h => h.trans hchecked.status) And.right
    rw [hstep, hexec, andThen_next, advance_eq hstatus hir]
    rfl
  · rw [hstep, hexec, andThen_fault]

/-- Settles O11: a fetch fault is the cycle's, with the `OUT` that the interrupt check kept. -/
theorem fetchAbove253Faults : Obligations.FetchAbove253Faults := by
  intro s s1 hchecked hpc
  obtain ⟨addr, hfault⟩ := fetchAndExecute_fault hpc
  exact ⟨addr, by rw [step_of_checkedTo hchecked, hfault, hchecked.out]⟩

theorem interruptCheck_ne_refused (tick : Bool) (s : State) (r : Refusal) : interruptCheck tick s ≠ .refused r := by
  intro h
  cases hie : s.ie
  case false => cases (interruptCheck_disabled hie tick).symm.trans h
  case true =>
    rw [interruptCheck_enabled hie] at h
    split at h
    next i _ =>
      rcases Nat.lt_or_ge 255 (timerStep tick s).pc with hpc | hpc
      · cases (interruptEntry_fault i hpc).symm.trans h
      · cases (interruptEntry_eq i hpc).symm.trans h
    next => cases h

theorem fetchAndExecute_ne_refused (s : State) (r : Refusal) : fetchAndExecute s ≠ .refused r := by
  intro h
  obtain ⟨f, hfault⟩ | ⟨-, i, -, heq⟩ := fetchAndExecute_cases s
  · cases hfault.symm.trans h
  · obtain hexec | ⟨t, -, hadvance⟩ := andThen_eq_refused.1 (heq.symm.trans h)
    · exact exec_ne_refused i s.latched r hexec
    · cases hadvance

/-- Settles O13: none of the three parts of a cycle refuses, and only `HLT` changes `STATUS`. -/
theorem cycleEndsInOneOfThreeOutcomes : Obligations.CycleEndsInOneOfThreeOutcomes := by
  refine fun s => ⟨fun hrun r h => ?_, fun t h => ?_, step_not_running⟩
  · rw [step_running hrun] at h
    obtain hcheck | ⟨s1, -, hrest⟩ := andThen_eq_refused.1 h
    · exact interruptCheck_ne_refused _ _ r hcheck
    · exact fetchAndExecute_ne_refused s1 r hrest
  · obtain ⟨s1, i, u, hchecked, -, hir, hexec, rfl⟩ := step_eq_next h
    obtain ⟨n, hadvance⟩ := exists_advance_eq_setPc u
    rw [hadvance, State.setPc_status, State.setPc_ir]
    obtain hstatus | ⟨rfl, hhalted⟩ := exec_status_cases hexec
    · exact .inl (hstatus.trans hchecked.status)
    · exact .inr ⟨hhalted, (effect_of_exec hexec).latches_timer.1.trans hir⟩

theorem InstrFault.out_eq {out : List OutEvent} {f : Fault} (h : InstrFault out f) : f.out = out := by
  cases h with
  | invalidRegister | registerIndexOutOfRange | invalidInterruptNumber | divisionByZero => rfl

theorem step_fault_out {s : State} {f : Fault} (h : step s = .fault f) : f.out = s.out := by
  obtain ⟨-, -, rfl⟩ | ⟨s1, -, ⟨-, addr, rfl⟩ | ⟨-, rfl⟩ | hinstr⟩ := step_eq_fault h
  · rfl
  · rfl
  · rfl
  · exact hinstr.out_eq

theorem step_next_out {s t : State} (h : step s = .next t) : t.out = s.out ∨ ∃ e, t.out = s.out ++ [e] := by
  obtain ⟨s1, i, u, hchecked, -, -, hexec, rfl⟩ := step_eq_next h
  obtain ⟨n, hadvance⟩ := exists_advance_eq_setPc u
  rw [hadvance, State.setPc_out, ← hchecked.out]
  exact (effect_of_exec hexec).out_cases

/-- Settles O14: the three outcomes of a step, one by one. -/
theorem outputIsAppendOnly : Obligations.OutputIsAppendOnly := by
  refine fun s => ⟨?_, fun f => step_fault_out⟩
  unfold outAfter
  split
  next t h =>
    obtain hsame | ⟨e, happend⟩ := step_next_out h
    · exact ⟨[], hsame.trans (List.append_nil _).symm, Nat.zero_le _⟩
    · exact ⟨[e], happend, Nat.le_refl _⟩
  next f h => exact ⟨[], (step_fault_out h).trans (List.append_nil _).symm, Nat.zero_le _⟩
  next => exact ⟨[], (List.append_nil _).symm, Nat.zero_le _⟩

/-- Settles O15: the fetch of the checked state writes the latches and nothing else. -/
theorem traceShowsTheFetchedInstruction : Obligations.TraceShowsTheFetchedInstruction := by
  intro s s1 ⟨hrun, hcheck⟩ hpc
  refine ⟨⟨s1.pc, (s1.mem.get s1.pc, s1.mem.get (s1.pc + 1), s1.mem.get (s1.pc + 2)), s1.regs⟩, ?_, rfl,
    fun _ => rfl, rfl⟩
  simp only [traceSample, hrun, hcheck, andThen_next, fetch_eq hpc]
  rfl

/-- The inverse of `Status.code` on its nine codes (R171). -/
def statusOfCode : Nat → Status
  | 0 => .running
  | 1 => .halted
  | 2 => .fault .outOfRange
  | 3 => .fault .invalidInstruction
  | 4 => .fault .invalidRegister
  | 5 => .fault .invalidInterruptNumber
  | 6 => .fault .divisionByZero
  | 7 => .fault .unsupportedAluOp
  | _ => .fault .registerIndexOutOfRange

theorem statusOfCode_code (a : Status) : statusOfCode a.code = a := by
  cases a with
  | running | halted => rfl
  | fault k => cases k <;> rfl

/-- Settles O16: the codes have an inverse. -/
theorem statusCodesAreDistinct : Obligations.StatusCodesAreDistinct :=
  ⟨rfl, rfl, rfl, rfl, rfl, rfl, rfl, rfl, rfl, fun _ _ h => Function.LeftInverse.injective statusOfCode_code h⟩

theorem opcode_eq_iret_iff (i : Instr) : i.opcode = 0x13 ↔ i = .iret := by
  cases i <;> simp [Instr.opcode]

/-- With `IE` false the interrupt check passes the state on, whatever the tick. -/
theorem checkedTo_nextTick {s : State} (hie : s.ie = false) (hrun : s.status = .running) : s.checkedTo s.nextTick :=
  ⟨hrun, interruptCheck_disabled (s := s.nextTick) hie s.tickNow⟩

/-- Settles O46: the check enters nothing, so `IE` is still false at dispatch, and only `IRET` writes it there. -/
theorem onlyIretEnablesInterrupts : Obligations.OnlyIretEnablesInterrupts := by
  intro s t hie h
  obtain ⟨s1, i, u, ⟨hrun, hcheck⟩, -, hir, hexec, rfl⟩ := step_eq_next h
  cases (checkedTo_nextTick hie hrun).2.symm.trans hcheck
  obtain ⟨n, hadvance⟩ := exists_advance_eq_setPc u
  rw [hadvance, State.setPc_ie, State.setPc_ir, (effect_of_exec hexec).latches_timer.1, hir, opcode_eq_iret_iff]
  by_cases hiret : i = .iret
  · subst hiret
    have hu : u = afterIret s.nextTick.latched := Host.Outcome.next.inj (hexec.symm.trans (exec_iret _))
    simp only [hu, afterIret_ie]
  · have hsame : u.ie = false := ((effect_of_exec hexec).ie hiret).trans hie
    simp [hsame, hiret]

/-- Settles O47: the two states differ only in the tick that the check does not look at. -/
theorem tickIsIgnoredWhileDisabled : Obligations.TickIsIgnoredWhileDisabled := by
  intro s a b rest hie
  by_cases hrun : s.status = .running
  · rw [step_of_checkedTo (checkedTo_nextTick (s := { s with ticks := a :: rest }) hie hrun),
      step_of_checkedTo (checkedTo_nextTick (s := { s with ticks := b :: rest }) hie hrun)]
    rfl
  · rw [step_not_running (s := { s with ticks := a :: rest }) hrun,
      step_not_running (s := { s with ticks := b :: rest }) hrun]

end Sys2Proof.Machine
end

section
/-! The invariant (logs 5 and 7, D5): each part of a cycle keeps it. -/

namespace Sys2Proof.Machine

theorem pushed_mem_wf {s : State} (v : Byte) (h : Memory.wf s.mem) : Memory.wf (pushed v s).mem :=
  Memory.put_wf v h (byte_lt_memSize _)

theorem pushedBytes_mem_wf {s : State} (vs : List Byte) (h : Memory.wf s.mem) : Memory.wf (pushedBytes vs s).mem := by
  induction vs generalizing s with
  | nil => exact h
  | cons v vs ih => exact ih (pushed_mem_wf v h)

/-- Interrupt entry writes inside memory and takes `pc` from a byte. -/
theorem State.Inv.interruptEntry {s t : State} {i : Fin 8} (h : s.Inv) (hentry : interruptEntry i s = .next t) :
    t.Inv := by
  obtain ⟨-, rfl⟩ := interruptEntry_eq_next hentry
  refine ⟨?_, ?_, ?_⟩
  · rw [State.jump_mem, enteredFrame_eq]
    exact pushedBytes_mem_wf _ h.mem_wf
  · rw [State.jump_pc]
    exact Nat.le_of_lt (byte_lt_memSize _)
  · rw [State.jump_status, enteredFrame_frame]
    exact h.status_alive

theorem State.Inv.timerStep {s : State} (tick : Bool) (h : s.Inv) : (timerStep tick s).Inv := by
  obtain ⟨hmem, hpc, hstatus⟩ := h
  cases tick
  case false => exact ⟨hmem, hpc, hstatus⟩
  case true => exact ⟨hmem, hpc, hstatus⟩

theorem State.Inv.checkedTo {s s1 : State} (h : s.Inv) (hchecked : s.checkedTo s1) : s1.Inv := by
  obtain ⟨hmem, hpc, hstatus⟩ := h
  have hnext : s.nextTick.Inv := ⟨hmem, hpc, hstatus⟩
  obtain rfl | rfl | ⟨i, hentry⟩ := interruptCheck_eq_next hchecked.2
  · exact hnext
  · exact hnext.timerStep _
  · exact (hnext.timerStep _).interruptEntry hentry

section
variable {i : Instr} {s t : State}

theorem Effect.mem_wf (h : Effect s i t) (hmem : Memory.wf s.mem) : Memory.wf t.mem := by
  cases h with
  | nop | hlt | write | cmp | prn | pra | jump | pop | ret => exact hmem
  | iret => rwa [afterIret_mem]
  | store r b v => exact Memory.put_wf v hmem (byte_lt_memSize _)
  | push a v => exact pushed_mem_wf v hmem
  | call a v target => exact pushed_mem_wf v hmem

/-- An instruction that can be fetched leaves `pc`, or adds 2 to it, or sets it to a byte. -/
theorem Effect.pc_le (h : Effect s i t) (hpc : s.pc ≤ 253) : t.pc ≤ 255 := by
  cases h with
  | nop | hlt | write | cmp | store | prn | pra | push | pop => exact hpc.trans (by decide)
  | jump hi hn => rw [State.setPc_pc]; omega
  | call a v target => exact Nat.le_of_lt_succ (byte_lt_memSize target)
  | ret target => exact Nat.le_of_lt_succ (byte_lt_memSize target)
  | iret => rw [afterIret_pc]; exact Nat.le_of_lt_succ (byte_lt_memSize _)

/-- The advance is at most 3, and only from where the instruction was fetched (R16, D5). -/
theorem advance_pc_le (h : Effect s i t) (hpc : s.pc ≤ 253) (hir : t.ir = i.opcode)
    (hstatus : t.status = .running ∨ t.status = .halted) : (advance t).pc ≤ 256 := by
  have hlength := operands_length_le i
  have htpc := h.pc_le hpc
  rw [advance_eq hstatus hir, encode_length, setsPc_opcode]
  split
  next => omega
  next =>
    split
    next => omega
    next hleaves =>
      have hkeeps : t.pc = s.pc := h.pc (.inl (by simpa using hleaves))
      rw [State.setPc_pc]
      omega

end

/-- Settles O56: the check, the instruction and the advance each keep it; the fetch writes only latches. -/
theorem stepKeepsInvariant : Obligations.StepKeepsInvariant := by
  intro s t hinv h
  obtain ⟨s1, i, u, hchecked, hpc, hir, hexec, rfl⟩ := step_eq_next h
  have heffect := effect_of_exec hexec
  have hinv1 := hinv.checkedTo hchecked
  have huir : u.ir = i.opcode := heffect.latches_timer.1.trans hir
  have hstatus : u.status = .running ∨ u.status = .halted :=
    (exec_status_cases hexec).imp (fun h => h.trans hchecked.status) And.right
  have hadvance := advance_pc_le heffect hpc huir hstatus
  obtain ⟨n, hn⟩ := exists_advance_eq_setPc u
  rw [hn] at hadvance ⊢
  exact ⟨heffect.mem_wf hinv1.mem_wf, hadvance, hstatus⟩

end Sys2Proof.Machine
end
